-- ==== Sys2Proof/Word.lean ====
section
/-! DEFINITION. The word types of Glacial (spec R4, R10, R30). -/

namespace Sys2Proof

/-- A byte: the accumulator, the x register, a memory cell, an immediate (R4, R10). -/
abbrev Byte := BitVec 8

/-- A 16-bit value: an instruction word, a data address, the y register (R4, R10, R30). -/
abbrev Word := BitVec 16

/-- A 12-bit code address: `pc`, `ra`, a branch target (R10, R11, R56). Its bit 0 is zero in every
state a run reaches (`State.Inv` in Sys2Proof/Safety.lean). -/
abbrev CodeAddr := BitVec 12

end Sys2Proof
end

