-- ==== Sys2Proof/Config.lean ====
section
/-! DEFINITION. The open parameters of the machine (spec R5), which every state carries and no step changes
(log 25), and the free values of the two inputs (R20, R21). The defaults are in Sys2Proof/Decode.lean. -/

namespace Sys2Proof

/-- `INSTR_BYTE_ORDER` (R5, R33): which byte of an instruction stands at the even address. -/
inductive ByteOrder where
  | little
  | big
  deriving DecidableEq, Repr

/-- `UNUSED_BITS_POLICY` (R5, R62 V5): what non-zero bits 7:1 of an indexed form do. -/
inductive UnusedBitsPolicy where
  | refuse
  | ignore
  deriving DecidableEq, Repr

/-- `OPR_A_SOURCE` (R5, R73): the accumulator value that `tax`, `tay` and `apc` read in an `opr` that
also rotates: the one at the start of the instruction, or the rotated one. -/
inductive OprASource where
  | start
  | rotated
  deriving DecidableEq, Repr

/-- `RESERVED_POLICY` (R5, R62, R181): what a reserved encoding does. The spec names one value. -/
inductive ReservedPolicy where
  | refuse
  deriving DecidableEq, Repr

/-- What stands behind an address that holds memory (R5, R30). -/
inductive MemKind where
  | readWrite
  | readOnly
  deriving DecidableEq, Repr

/-- The addresses `first` to `last`, both included, and the memory they hold (R5 `MEM_MAP`; log 26). -/
structure MemRegion where
  first : Word
  last : Word
  kind : MemKind
  deriving DecidableEq, Repr

/-- The open parameters (R5), but for the two inputs: those are free values and settled samples (log 10). -/
structure Params where
  /-- `INSTR_BYTE_ORDER` (R33, D1). -/
  instrByteOrder : ByteOrder
  /-- `RESET_PC` (R25, D12). -/
  resetPc : CodeAddr
  /-- `UNUSED_BITS_POLICY` (R62, D6). -/
  unusedBitsPolicy : UnusedBitsPolicy
  /-- `RESERVED_POLICY` (R62, R181, D4, D5, D7, D19). -/
  reservedPolicy : ReservedPolicy
  /-- `OPR_A_SOURCE` (R73, D3). -/
  oprASource : OprASource
  /-- `MEM_MAP` (R30, R41, D18): at an address the first region that holds it decides, and nothing stands
  at an address of no region (log 26). -/
  memMap : List MemRegion
  deriving DecidableEq, Repr

/-- What an address that memory does not list reads as. DESIGN CHOICE, unsafe: the spec calls such a
byte unspecified (R25, U9); log 8. -/
def Config.unlistedByte : Byte := 0x00#8

/-- `EXT_INT(t)` (R5, R20, D15): the external-interrupt input at its `t`-th sample, for samples that
the state's own queue does not settle. A free value: nothing is known of it. Log 10. -/
opaque Config.extInt : Nat → Bool

/-- `CLOCK_TICK(t)` (R5, R21, D15): the clock-tick input at its `t`-th sample, for samples that the
state's own queue does not settle. A free value: nothing is known of it. Log 10. -/
opaque Config.clockTick : Nat → Bool

end Sys2Proof
end

