-- ==== Sys2Proof/Syntax.lean ====
section
/-! DEFINITION. The instructions: one constructor of `Instr` per row of spec/opcode_table.json, with the
fields of the row. -/

namespace Sys2Proof

/-- The `idx` field of the indexed forms: 0 = x, 1 = y (R53, R54). -/
inductive Idx where
  | x
  | y
  deriving DecidableEq, Repr

/-- The `rot` field of `opr`: 00 no rotate, 10 `rlc`, 11 `rrc` (R57). -/
inductive Rot where
  | keep
  | rlc
  | rrc
  deriving DecidableEq, Repr

/-- The `cy` field of `opr`: 00 carry unchanged, 10 `clc`, 11 `sec` (R57). -/
inductive CarryFn where
  | keep
  | clc
  | sec
  deriving DecidableEq, Repr

/-- The `idx2` field of `opr`: 00 no transfer, 10 `tax`, 11 `tay` (R57). -/
inductive Xfer where
  | keep
  | tax
  | tay
  deriving DecidableEq, Repr

/-- The `cond` field of `br`, 0 to 7 in this order (R160). -/
inductive Cond where
  | nz
  | z
  | nc
  | c
  | nint
  | int
  | ntick
  | tick
  deriving DecidableEq, Repr

/-- The classes of reserved words, V1 to V5 of R62. -/
inductive Reserved where
  /-- V1: `opr` with `w[11:9] /= 0`. -/
  | oprReservedField
  /-- V2: `opr` with `rot`, `cy` or `idx2` equal to 0b01. -/
  | oprUnlistedValue
  /-- V3: a `store` row with `w[11:8] /= 0`. -/
  | storeOpcodeBits
  /-- V4: an accumulator-operation row with `w[11:10] /= 0`. -/
  | accOpcodeBits
  /-- V5: an indexed or indexed-postincrement form with `w[7:1] /= 0`. -/
  | indexUnusedBits
  deriving DecidableEq, Repr

/-- A Glacial instruction. The rows of the table with an "alias_of" (the named words of `opr` and the
eight conditions of `br`) have constructors of their own beside `opr` and `br` (log 22). -/
inductive Instr where
  /-- R70: every combination of the `opr` functions. -/
  | opr (utx apc ret : Bool) (rot : Rot) (cy : CarryFn) (xfer : Xfer)
  /-- R71 -/
  | nop
  /-- R74 -/
  | utx
  /-- R78 -/
  | apc
  /-- R77 -/
  | ret
  /-- R75 -/
  | rlc
  /-- R76 -/
  | rrc
  /-- R79 -/
  | clc
  /-- R80 -/
  | sec
  /-- R81 -/
  | tax
  /-- R82 -/
  | tay
  /-- R83 -/
  | lsl
  /-- R84 -/
  | lsr
  /-- R85 -/
  | retadd
  /-- R86 -/
  | uarttxr
  /-- R101 -/
  | storeAbs (addr8 : Byte)
  /-- R102 -/
  | storeIdx (idx : Idx)
  /-- R103 -/
  | storeIdxPost (idx : Idx)
  /-- R111 -/
  | loadImm (imm8 : Byte)
  /-- R112 -/
  | loadAbs (addr8 : Byte)
  /-- R113 -/
  | loadIdx (idx : Idx)
  /-- R114 -/
  | loadIdxPost (idx : Idx)
  /-- R116 -/
  | andImm (imm8 : Byte)
  /-- R117 -/
  | andAbs (addr8 : Byte)
  /-- R118 -/
  | andIdx (idx : Idx)
  /-- R119 -/
  | andIdxPost (idx : Idx)
  /-- R121 -/
  | xorImm (imm8 : Byte)
  /-- R122 -/
  | xorAbs (addr8 : Byte)
  /-- R123 -/
  | xorIdx (idx : Idx)
  /-- R124 -/
  | xorIdxPost (idx : Idx)
  /-- R126 -/
  | adcImm (imm8 : Byte)
  /-- R127 -/
  | adcAbs (addr8 : Byte)
  /-- R128 -/
  | adcIdx (idx : Idx)
  /-- R129 -/
  | adcIdxPost (idx : Idx)
  /-- R141: `addr11` is the target divided by two (R55, R56). -/
  | jump (addr11 : BitVec 11)
  /-- R142 -/
  | call (addr11 : BitVec 11)
  /-- R152: `i` is the polarity, `bit` the number of the bit tested (R58, R150). -/
  | skbAbs (i : Bool) (bit : BitVec 3) (addr8 : Byte)
  /-- R153 -/
  | skbIdx (i : Bool) (bit : BitVec 3) (idx : Idx)
  /-- R154 -/
  | skbIdxPost (i : Bool) (bit : BitVec 3) (idx : Idx)
  /-- R161 -/
  | br (cond : Cond) (addr11 : BitVec 11)
  /-- R162 -/
  | brNz (addr11 : BitVec 11)
  /-- R163 -/
  | brZ (addr11 : BitVec 11)
  /-- R164 -/
  | brNc (addr11 : BitVec 11)
  /-- R165 -/
  | brC (addr11 : BitVec 11)
  /-- R166 -/
  | brNint (addr11 : BitVec 11)
  /-- R167 -/
  | brInt (addr11 : BitVec 11)
  /-- R168 -/
  | brNtick (addr11 : BitVec 11)
  /-- R169 -/
  | brTick (addr11 : BitVec 11)
  deriving DecidableEq, Repr

end Sys2Proof
end

