-- ==== Sys2Proof/WellFormed.lean ====
section
/-! DEFINITION. Well-formed instructions: the terms that some word decodes to. The types of the fields
already shut out every value the spec does not list (R57, R62 V2), so the one check left is the NAME of
a word that two rows of the table describe: the more specific row names it (log 22). -/

namespace Sys2Proof

/-- Whether a combination of `opr` functions has a row of its own in the opcode table: no function, one
function alone, or one of the four named combinations (R65, R71 to R86). -/
def hasOwnRow : Bool → Bool → Bool → Rot → CarryFn → Xfer → Bool
  | false, false, false, .keep, .keep, _ => true
  | true, false, false, .keep, .keep, .keep => true
  | false, true, _, .keep, .keep, .keep => true
  | false, false, true, .keep, .keep, .keep => true
  | false, false, false, .rlc, .keep, .keep => true
  | false, false, false, .rrc, .keep, .keep => true
  | false, false, false, .keep, .clc, .keep => true
  | false, false, false, .keep, .sec, .keep => true
  | false, false, false, .rlc, .clc, .keep => true
  | false, false, false, .rrc, .clc, .keep => true
  | true, false, false, .rrc, .sec, .keep => true
  | _, _, _, _, _, _ => false

/-- An instruction is well-formed when it bears the name of the most specific row of the table for its
word: an `opr` with a row of its own is spelled by that row, and a `br` by the row of its condition.
Meanings and the encoder are total and do not ask for this. -/
def Instr.wellFormed : Instr → Bool
  | .opr u p r rot cy xfer => !hasOwnRow u p r rot cy xfer
  | .br _ _ => false
  | .nop => true
  | .utx => true
  | .apc => true
  | .ret => true
  | .rlc => true
  | .rrc => true
  | .clc => true
  | .sec => true
  | .tax => true
  | .tay => true
  | .lsl => true
  | .lsr => true
  | .retadd => true
  | .uarttxr => true
  | .storeAbs _ => true
  | .storeIdx _ => true
  | .storeIdxPost _ => true
  | .loadImm _ => true
  | .loadAbs _ => true
  | .loadIdx _ => true
  | .loadIdxPost _ => true
  | .andImm _ => true
  | .andAbs _ => true
  | .andIdx _ => true
  | .andIdxPost _ => true
  | .xorImm _ => true
  | .xorAbs _ => true
  | .xorIdx _ => true
  | .xorIdxPost _ => true
  | .adcImm _ => true
  | .adcAbs _ => true
  | .adcIdx _ => true
  | .adcIdxPost _ => true
  | .jump _ => true
  | .call _ => true
  | .skbAbs _ _ _ => true
  | .skbIdx _ _ _ => true
  | .skbIdxPost _ _ _ => true
  | .brNz _ => true
  | .brZ _ => true
  | .brNc _ => true
  | .brC _ => true
  | .brNint _ => true
  | .brInt _ => true
  | .brNtick _ => true
  | .brTick _ => true

end Sys2Proof
end

