-- ==== Sys2Proof/Decode.lean ====
section
/-! DEFINITION. Instruction words in memory (R33), the decoder (R60, R62, R64) and the encoder, written
from the same encoding tables. The opcodes of `jump` and `call` are reconstructed by the spec (R61, D2):
each stands in ONE definition below. First the defaults of the open parameters (R5). -/

namespace Sys2Proof

/-! ### The defaults of the open parameters (R5) -/

/-- `INSTR_BYTE_ORDER`, the spec's default (R5, R33, D1). UNVERIFIED: the default the spec decides; unsafe: log 1. -/
def instrByteOrder : ByteOrder := .little

/-- `RESET_PC`, the spec's default (R5, R25, D12). UNVERIFIED: the default the spec decides; unsafe: log 6. -/
def resetPc : CodeAddr := 0x000#12

/-- `UNUSED_BITS_POLICY`, the spec's default (R5, R62 V5, D6). UNVERIFIED: the default the spec decides; safe: log 5. -/
def unusedBitsPolicy : UnusedBitsPolicy := .refuse

/-- `RESERVED_POLICY`, the spec's default (R5, R62, R181). UNVERIFIED: the default the spec decides; safe: log 4. -/
def reservedPolicy : ReservedPolicy := .refuse

/-- `OPR_A_SOURCE`, the spec's default (R5, R73, D3). UNVERIFIED: the default the spec decides; unsafe: log 3. -/
def oprASource : OprASource := .start

/-- `MEM_MAP`, the spec's default: all 65536 bytes are plain read/write memory (R5, R41, D18). UNVERIFIED: the
default the spec decides; unsafe: log 9. -/
def memMap : List MemRegion := [⟨0x0000#16, 0xFFFF#16, .readWrite⟩]

/-- Every open parameter at its default (R5). -/
def Params.default : Params :=
  { instrByteOrder := Sys2Proof.instrByteOrder
    resetPc := Sys2Proof.resetPc
    unusedBitsPolicy := Sys2Proof.unusedBitsPolicy
    reservedPolicy := Sys2Proof.reservedPolicy
    oprASource := Sys2Proof.oprASource
    memMap := Sys2Proof.memMap }

/-! ### Bytes and words -/

/-- The word whose bytes stand at the even and at the odd address (R33). -/
def joinBytes (order : ByteOrder) (even odd : Byte) : Word :=
  match order with
  | .little => odd ++ even
  | .big => even ++ odd

/-- The byte of a word that stands at the even address (R33). -/
def evenByte (order : ByteOrder) (w : Word) : Byte :=
  match order with
  | .little => w.extractLsb' 0 8
  | .big => w.extractLsb' 8 8

/-- The byte of a word that stands at the odd address (R33). -/
def oddByte (order : ByteOrder) (w : Word) : Byte :=
  match order with
  | .little => w.extractLsb' 8 8
  | .big => w.extractLsb' 0 8

/-! ### Fields -/

/-- One bit of a word. -/
def bitField (w : Word) (k : Nat) : Bool := w.extractLsb' k 1 == 1#1

/-- The `idx` field, `w[0]` (R53, R54). -/
def idxField (w : Word) : Idx := if bitField w 0 then .y else .x

/-- Whether the policy admits the bits 7:1 of an indexed form (R62 V5). -/
def indexBitsAdmitted (policy : UnusedBitsPolicy) (w : Word) : Bool :=
  match policy with
  | .refuse => w.extractLsb' 1 7 == 0#7
  | .ignore => true

/-- The `rot` field, `w[5:4]`; none for the unlisted 0b01 (R57, R62 V2). -/
def rotField (w : Word) : Option Rot :=
  if w.extractLsb' 4 2 = 0b00#2 then some .keep
  else if w.extractLsb' 4 2 = 0b10#2 then some .rlc
  else if w.extractLsb' 4 2 = 0b11#2 then some .rrc
  else none

/-- The `cy` field, `w[3:2]`; none for the unlisted 0b01 (R57, R62 V2). -/
def cyField (w : Word) : Option CarryFn :=
  if w.extractLsb' 2 2 = 0b00#2 then some .keep
  else if w.extractLsb' 2 2 = 0b10#2 then some .clc
  else if w.extractLsb' 2 2 = 0b11#2 then some .sec
  else none

/-- The `idx2` field, `w[1:0]`; none for the unlisted 0b01 (R57, R62 V2). -/
def xferField (w : Word) : Option Xfer :=
  if w.extractLsb' 0 2 = 0b00#2 then some .keep
  else if w.extractLsb' 0 2 = 0b10#2 then some .tax
  else if w.extractLsb' 0 2 = 0b11#2 then some .tay
  else none

/-- The `cond` field, `w[13:11]` (R160). -/
def condField (w : Word) : Cond :=
  if w.extractLsb' 11 3 = 0b000#3 then .nz
  else if w.extractLsb' 11 3 = 0b001#3 then .z
  else if w.extractLsb' 11 3 = 0b010#3 then .nc
  else if w.extractLsb' 11 3 = 0b011#3 then .c
  else if w.extractLsb' 11 3 = 0b100#3 then .nint
  else if w.extractLsb' 11 3 = 0b101#3 then .int
  else if w.extractLsb' 11 3 = 0b110#3 then .ntick
  else .tick

/-! ### Decoding by groups (R59, R60) -/

/-- An indexed form: `mk idx`, or reserved (V5) where the policy does not admit bits 7:1. -/
def decodeIndexed (policy : UnusedBitsPolicy) (w : Word) (mk : Idx → Instr) : Except Reserved Instr :=
  if indexBitsAdmitted policy w then .ok (mk (idxField w)) else .error .indexUnusedBits

/-- `w[15:12] = 0000`: `opr` (R57, R72). -/
def decodeOpr (w : Word) : Except Reserved Instr :=
  if w.extractLsb' 9 3 = 0b000#3 then
    match rotField w, cyField w, xferField w with
    | some rot, some cy, some xfer =>
      .ok (.opr (bitField w 8) (bitField w 7) (bitField w 6) rot cy xfer)
    | _, _, _ => .error .oprUnlistedValue
  else .error .oprReservedField

/-- `w[15:12] = 0001, 0010, 0011`: `store` (R60, R100). -/
def decodeStore (policy : UnusedBitsPolicy) (w : Word) : Except Reserved Instr :=
  if w.extractLsb' 8 4 = 0b0000#4 then
    if w.extractLsb' 12 2 = 0b01#2 then .ok (.storeAbs (w.extractLsb' 0 8))
    else if w.extractLsb' 12 2 = 0b10#2 then decodeIndexed policy w .storeIdx
    else decodeIndexed policy w .storeIdxPost
  else .error .storeOpcodeBits

/-- Immediate forms of the accumulator operations, by `oo = w[9:8]` (R110). -/
def accImm (oo : BitVec 2) (imm8 : Byte) : Instr :=
  if oo = 0b00#2 then .loadImm imm8
  else if oo = 0b01#2 then .andImm imm8
  else if oo = 0b10#2 then .xorImm imm8
  else .adcImm imm8

/-- Absolute forms of the accumulator operations (R110). -/
def accAbs (oo : BitVec 2) (addr8 : Byte) : Instr :=
  if oo = 0b00#2 then .loadAbs addr8
  else if oo = 0b01#2 then .andAbs addr8
  else if oo = 0b10#2 then .xorAbs addr8
  else .adcAbs addr8

/-- Indexed forms of the accumulator operations (R110). -/
def accIdx (oo : BitVec 2) (idx : Idx) : Instr :=
  if oo = 0b00#2 then .loadIdx idx
  else if oo = 0b01#2 then .andIdx idx
  else if oo = 0b10#2 then .xorIdx idx
  else .adcIdx idx

/-- Indexed postincrement forms of the accumulator operations (R110). -/
def accIdxPost (oo : BitVec 2) (idx : Idx) : Instr :=
  if oo = 0b00#2 then .loadIdxPost idx
  else if oo = 0b01#2 then .andIdxPost idx
  else if oo = 0b10#2 then .xorIdxPost idx
  else .adcIdxPost idx

/-- `w[15:14] = 01`: `load`, `and`, `xor`, `adc` (R60, R110). -/
def decodeAcc (policy : UnusedBitsPolicy) (w : Word) : Except Reserved Instr :=
  if w.extractLsb' 10 2 = 0b00#2 then
    if w.extractLsb' 12 2 = 0b00#2 then .ok (accImm (w.extractLsb' 8 2) (w.extractLsb' 0 8))
    else if w.extractLsb' 12 2 = 0b01#2 then .ok (accAbs (w.extractLsb' 8 2) (w.extractLsb' 0 8))
    else if w.extractLsb' 12 2 = 0b10#2 then decodeIndexed policy w (accIdx (w.extractLsb' 8 2))
    else decodeIndexed policy w (accIdxPost (w.extractLsb' 8 2))
  else .error .accOpcodeBits

/-- `w[15:11]` of `jump` (R61, D2). UNVERIFIED: reconstructed by the spec; unsafe: log 2. -/
def jumpOpcode : BitVec 5 := 0b10000#5

/-- `w[15:11]` of `call` (R61, D2). UNVERIFIED: reconstructed by the spec; unsafe: log 2. -/
def callOpcode : BitVec 5 := 0b10001#5

/-- `w[15:12] = 1001, 1010, 1011`: `skb` (R58, R60, R150). -/
def decodeSkb (policy : UnusedBitsPolicy) (w : Word) : Except Reserved Instr :=
  if w.extractLsb' 12 2 = 0b01#2 then
    .ok (.skbAbs (bitField w 11) (w.extractLsb' 8 3) (w.extractLsb' 0 8))
  else if w.extractLsb' 12 2 = 0b10#2 then
    decodeIndexed policy w (.skbIdx (bitField w 11) (w.extractLsb' 8 3))
  else decodeIndexed policy w (.skbIdxPost (bitField w 11) (w.extractLsb' 8 3))

/-- The row of the map (R60) that a word belongs to, among the 26 decoding rows; a word of no row is one
of the reserved classes (R62, R64). -/
def decodeRow (policy : UnusedBitsPolicy) (w : Word) : Except Reserved Instr :=
  if w.extractLsb' 11 5 = jumpOpcode then .ok (.jump (w.extractLsb' 0 11))
  else if w.extractLsb' 11 5 = callOpcode then .ok (.call (w.extractLsb' 0 11))
  else if w.extractLsb' 12 4 = 0b0000#4 then decodeOpr w
  else if w.extractLsb' 14 2 = 0b00#2 then decodeStore policy w
  else if w.extractLsb' 14 2 = 0b01#2 then decodeAcc policy w
  else if w.extractLsb' 14 2 = 0b10#2 then decodeSkb policy w
  else .ok (.br (condField w) (w.extractLsb' 0 11))

/-! ### The name of a word that two rows describe (log 22) -/

/-- The row of an `opr` combination: a row of its own where the table has one (R71 to R86). -/
def nameOpr : Bool → Bool → Bool → Rot → CarryFn → Xfer → Instr
  | false, false, false, .keep, .keep, .keep => .nop
  | true, false, false, .keep, .keep, .keep => .utx
  | false, true, false, .keep, .keep, .keep => .apc
  | false, false, true, .keep, .keep, .keep => .ret
  | false, false, false, .rlc, .keep, .keep => .rlc
  | false, false, false, .rrc, .keep, .keep => .rrc
  | false, false, false, .keep, .clc, .keep => .clc
  | false, false, false, .keep, .sec, .keep => .sec
  | false, false, false, .keep, .keep, .tax => .tax
  | false, false, false, .keep, .keep, .tay => .tay
  | false, false, false, .rlc, .clc, .keep => .lsl
  | false, false, false, .rrc, .clc, .keep => .lsr
  | false, true, true, .keep, .keep, .keep => .retadd
  | true, false, false, .rrc, .sec, .keep => .uarttxr
  | u, p, r, rot, cy, xfer => .opr u p r rot cy xfer

/-- The row of a `br` condition (R162 to R169). -/
def nameBr : Cond → BitVec 11 → Instr
  | .nz, t => .brNz t
  | .z, t => .brZ t
  | .nc, t => .brNc t
  | .c, t => .brC t
  | .nint, t => .brNint t
  | .int, t => .brInt t
  | .ntick, t => .brNtick t
  | .tick, t => .brTick t

/-- An instruction under the name of the most specific row of the table for its word. -/
def canonical (i : Instr) : Instr :=
  match i with
  | .opr u p r rot cy xfer => nameOpr u p r rot cy xfer
  | .br cond t => nameBr cond t
  | j => j

/-- The decoder for a given policy on bits 7:1 of the indexed forms. Total: every word is an instruction
or a reserved word of a named class. -/
def decodeWordWith (policy : UnusedBitsPolicy) (w : Word) : Except Reserved Instr :=
  match decodeRow policy w with
  | .ok i => .ok (canonical i)
  | .error r => .error r

/-- The decoder under the default policy. -/
def decodeWord (w : Word) : Except Reserved Instr := decodeWordWith unusedBitsPolicy w

/-- The instruction whose bytes stand at an even address and at the odd address after it, under the default
parameters (R33, R64). -/
def decodeBytes (even odd : Byte) : Except Reserved Instr :=
  decodeWord (joinBytes instrByteOrder even odd)

/-- The instruction the decoder reads from a table word: the word is laid out as memory holds it and its
two bytes are decoded. No Glacial instruction is longer than 16 bits (R50). -/
def decodeTableWord (nbits w : Nat) : Option Instr :=
  if nbits ≤ 16 then
    let word := BitVec.ofNat 16 (w % 2 ^ nbits)
    match decodeBytes (evenByte instrByteOrder word) (oddByte instrByteOrder word) with
    | .ok i => some i
    | .error _ => none
  else none

/-! ### The encoder (R60) -/

/-- The bits of the `rot` field (R57). -/
def rotBits : Rot → BitVec 2
  | .keep => 0b00#2
  | .rlc => 0b10#2
  | .rrc => 0b11#2

/-- The bits of the `cy` field (R57). -/
def cyBits : CarryFn → BitVec 2
  | .keep => 0b00#2
  | .clc => 0b10#2
  | .sec => 0b11#2

/-- The bits of the `idx2` field (R57). -/
def xferBits : Xfer → BitVec 2
  | .keep => 0b00#2
  | .tax => 0b10#2
  | .tay => 0b11#2

/-- The bits of the `cond` field (R160). -/
def condBits : Cond → BitVec 3
  | .nz => 0b000#3
  | .z => 0b001#3
  | .nc => 0b010#3
  | .c => 0b011#3
  | .nint => 0b100#3
  | .int => 0b101#3
  | .ntick => 0b110#3
  | .tick => 0b111#3

/-- The low byte of an indexed form: seven zeros and the `idx` bit (R53, R54). -/
def idxByte : Idx → BitVec 8
  | .x => 0b00000000#8
  | .y => 0b00000001#8

/-- The word of `opr` (R57). -/
def encodeOpr (u p r : Bool) (rot : Rot) (cy : CarryFn) (xfer : Xfer) : Word :=
  0b0000000#7 ++ BitVec.ofBool u ++ BitVec.ofBool p ++ BitVec.ofBool r ++ rotBits rot ++ cyBits cy
    ++ xferBits xfer

/-- The word of `br` (R160). -/
def encodeBr (cond : Cond) (t : BitVec 11) : Word := 0b11#2 ++ condBits cond ++ t

/-- The word of an instruction (R60, R65, R160). -/
def encode : Instr → Word
  | .opr u p r rot cy xfer => encodeOpr u p r rot cy xfer
  | .nop => 0x0000#16
  | .utx => 0x0100#16
  | .apc => 0x0080#16
  | .ret => 0x0040#16
  | .rlc => 0x0020#16
  | .rrc => 0x0030#16
  | .clc => 0x0008#16
  | .sec => 0x000C#16
  | .tax => 0x0002#16
  | .tay => 0x0003#16
  | .lsl => 0x0028#16
  | .lsr => 0x0038#16
  | .retadd => 0x00C0#16
  | .uarttxr => 0x013C#16
  | .storeAbs addr8 => 0b00010000#8 ++ addr8
  | .storeIdx idx => 0b00100000#8 ++ idxByte idx
  | .storeIdxPost idx => 0b00110000#8 ++ idxByte idx
  | .loadImm imm8 => 0b01000000#8 ++ imm8
  | .loadAbs addr8 => 0b01010000#8 ++ addr8
  | .loadIdx idx => 0b01100000#8 ++ idxByte idx
  | .loadIdxPost idx => 0b01110000#8 ++ idxByte idx
  | .andImm imm8 => 0b01000001#8 ++ imm8
  | .andAbs addr8 => 0b01010001#8 ++ addr8
  | .andIdx idx => 0b01100001#8 ++ idxByte idx
  | .andIdxPost idx => 0b01110001#8 ++ idxByte idx
  | .xorImm imm8 => 0b01000010#8 ++ imm8
  | .xorAbs addr8 => 0b01010010#8 ++ addr8
  | .xorIdx idx => 0b01100010#8 ++ idxByte idx
  | .xorIdxPost idx => 0b01110010#8 ++ idxByte idx
  | .adcImm imm8 => 0b01000011#8 ++ imm8
  | .adcAbs addr8 => 0b01010011#8 ++ addr8
  | .adcIdx idx => 0b01100011#8 ++ idxByte idx
  | .adcIdxPost idx => 0b01110011#8 ++ idxByte idx
  | .jump t => jumpOpcode ++ t
  | .call t => callOpcode ++ t
  | .skbAbs i bit addr8 => 0b1001#4 ++ BitVec.ofBool i ++ bit ++ addr8
  | .skbIdx i bit idx => 0b1010#4 ++ BitVec.ofBool i ++ bit ++ idxByte idx
  | .skbIdxPost i bit idx => 0b1011#4 ++ BitVec.ofBool i ++ bit ++ idxByte idx
  | .br cond t => encodeBr cond t
  | .brNz t => encodeBr .nz t
  | .brZ t => encodeBr .z t
  | .brNc t => encodeBr .nc t
  | .brC t => encodeBr .c t
  | .brNint t => encodeBr .nint t
  | .brInt t => encodeBr .int t
  | .brNtick t => encodeBr .ntick t
  | .brTick t => encodeBr .tick t

end Sys2Proof
end

