-- ==== Sys2Proof/Machine/State.lean ====
section
/-! DEFINITION. The state of the machine (spec R10, R22, R23, R24), the reasons a step can stop, and the
state after reset (R25, R200). -/

namespace Sys2Proof.Machine

/-- Memory (R23, R30): the bytes of 0x0000 to 0xFFFF that differ from what an unlisted address reads as,
in strictly rising order of address (`Memory.wf`). -/
abbrev Memory := List Host.Cell

/-- Everything the spec gives the machine (R10, R22, R23, R24), and the model's own record of the samples
of the two inputs (R20, R21; log 10). -/
structure State where
  /-- The open parameters of the machine (R5): fixed for the machine, no step changes them (log 25). -/
  params : Params
  /-- Program counter, bit 0 always zero (R10, R11). -/
  pc : CodeAddr
  /-- Return address, bit 0 always zero (R10, R13). -/
  ra : CodeAddr
  /-- x index register (R10, R14). -/
  x : Byte
  /-- y index register (R10, R15). -/
  y : Word
  /-- Accumulator (R10, R16). -/
  a : Byte
  /-- Carry flag (R10, R17). -/
  c : Bool
  /-- The one memory of code and data (R23). -/
  mem : Memory
  /-- The bits sent to the UART transmit output, oldest first (R22). No instruction reads it. -/
  uartOut : List Bool
  /-- Samples of the external-interrupt input that the environment has settled, next first. The model's
  own field: once it is empty a sample is the free value `Config.extInt extIntSamples` (log 10). -/
  extIntQueue : List Bool
  /-- The number of external-interrupt samples taken. The model's own field (log 10). -/
  extIntSamples : Nat
  /-- Samples of the clock-tick input that the environment has settled, next first. The model's own
  field: once it is empty a sample is the free value `Config.clockTick tickSamples` (log 10). -/
  tickQueue : List Bool
  /-- The number of clock-tick samples taken. The model's own field (log 10). -/
  tickSamples : Nat
  deriving DecidableEq, Repr

/-- The faults of the machine: none. Glacial raises no exception, trap, fault or abort of any kind (R180);
misalignment and out-of-range addresses are impossible by the widths (R11, R30, R35). Safe: log 20. -/
inductive Fault
  deriving DecidableEq, Repr

/-- What an access to memory is for (R31, R32, R33). -/
inductive Access where
  | fetch
  | read
  | write
  deriving DecidableEq, Repr

/-- The refusals: steps to which the spec gives no meaning. -/
inductive Refusal where
  /-- Raised by `exec` for an instruction that has no meaning yet. No arm of `exec` answers it now. Safe. -/
  | notModelled (mnemonic : String)
  /-- Raised by `step` for a word that matches no row of the encoding map, with its class V1 to V5: the
  spec gives such a step no meaning (R62, R181). Safe: log 4. -/
  | reservedEncoding (cls : Reserved) (word : Word)
  /-- Raised by `step` for a fetch, and by the meanings of the memory forms for a read or a write, at an address
  that the parameter `MEM_MAP` does not admit: a read or fetch where it has nothing, a write where it has no
  writable memory. The spec says that such an access is outside the source (R32, R180). It cannot occur under
  the default map. Safe: log 26. -/
  | outsideMemMap (access : Access) (addr : Word)
  deriving DecidableEq, Repr

/-- The machine with the given parameters (R5) after a reset with the given draws and memory image (R25, R200):
`pc` at `RESET_PC`, `uartOut` empty, and `ra`, `x`, `y`, `a`, `c` whatever the draws are. No sample has been
taken. -/
def State.powerOn (p : Params) (ra : CodeAddr) (x : Byte) (y : Word) (a : Byte) (c : Bool) (image : Memory) :
    State :=
  { params := p, pc := p.resetPc, ra := ra, x := x, y := y, a := a, c := c, mem := image, uartOut := [],
    extIntQueue := [], extIntSamples := 0, tickQueue := [], tickSamples := 0 }

/-- The machine with the default parameters right after reset (R5, R25, R200), with nothing placed in memory. The spec states no value
for `ra`, `x`, `y`, `a`, `c`: zero here is a DESIGN CHOICE, unsafe: log 7. -/
def State.reset : State := State.powerOn .default 0x000#12 0x00#8 0x0000#16 0x00#8 false []

end Sys2Proof.Machine
end

