-- ==== Sys2Proof/Machine/Ops.lean ====
section
/-! DEFINITION. The named operations over registers, memory, the inputs and the output (spec R7). There is
no operation that takes an exception: the machine has none (R180, R184). -/

namespace Sys2Proof.Machine

/-! ### Memory (R30 to R32) -/

/-- The byte at an address: the listed one, or what an unlisted address reads as (R31; log 8). -/
def Memory.read : Memory → Nat → Byte
  | [], _ => Config.unlistedByte
  | (k, b) :: rest, addr => if k = addr then b else Memory.read rest addr

/-- A cell put in front of a memory, unless it holds what an unlisted address reads as. -/
def Memory.consCell (addr : Nat) (v : Byte) (rest : Memory) : Memory :=
  if v = Config.unlistedByte then rest else (addr, v) :: rest

/-- Memory with one byte set (R32), in canonical form again. -/
def Memory.write : Memory → Nat → Byte → Memory
  | [], addr, v => Memory.consCell addr v []
  | (k, b) :: rest, addr, v =>
    if k < addr then (k, b) :: Memory.write rest addr v
    else if k = addr then Memory.consCell addr v rest
    else Memory.consCell addr v ((k, b) :: rest)

/-- The canonical form of the cells whose addresses are at least `low`: addresses strictly rising and
below 65536 (R30), and no cell equal to what an unlisted address reads as. -/
def Memory.wfFrom : Nat → Memory → Bool
  | _, [] => true
  | low, (k, b) :: rest =>
    decide (low ≤ k) && decide (k < 65536) && decide (b ≠ Config.unlistedByte)
      && Memory.wfFrom (k + 1) rest

/-- The canonical form of memory. -/
def Memory.wf (m : Memory) : Bool := Memory.wfFrom 0 m

/-- `MemRead(addr, 1)` (R7, R31): no side effect. -/
def State.memRead (s : State) (addr : Word) : Byte := s.mem.read addr.toNat

/-- `MemWrite(addr, 1, v)` (R7, R32): one byte, no other changes. -/
def State.memWrite (s : State) (addr : Word) (v : Byte) : State :=
  { s with mem := s.mem.write addr.toNat v }

/-! ### The memory map (R5, R30, R32, R41; log 26) -/

/-- What `MEM_MAP` says of an address: the memory of the first region that holds it, or nothing. -/
def memKindAt : List MemRegion → Word → Option MemKind
  | [], _ => none
  | r :: rest, addr => if r.first ≤ addr ∧ addr ≤ r.last then some r.kind else memKindAt rest addr

/-- Memory, writable or not, stands at the address. -/
def State.readable (s : State) (addr : Word) : Bool := (memKindAt s.params.memMap addr).isSome

/-- Writable memory stands at the address. -/
def State.writable (s : State) (addr : Word) : Bool :=
  memKindAt s.params.memMap addr == some .readWrite

/-- `t`, if `s` may read at the address. -/
def State.ifReadable (s : State) (addr : Word) (t : State) : Host.Outcome State Fault Refusal :=
  if s.readable addr = true then .next t else .refused (.outsideMemMap .read addr)

/-- `t`, if `s` may write at the address. -/
def State.ifWritable (s : State) (addr : Word) (t : State) : Host.Outcome State Fault Refusal :=
  if s.writable addr = true then .next t else .refused (.outsideMemMap .write addr)

/-! ### Registers (R7: `r <- v`) -/

/-- `pc <- v`. -/
def State.setPc (s : State) (v : CodeAddr) : State := { s with pc := v }

/-- `ra <- v`. -/
def State.setRa (s : State) (v : CodeAddr) : State := { s with ra := v }

/-- `x <- v`. -/
def State.setX (s : State) (v : Byte) : State := { s with x := v }

/-- `y <- v`. -/
def State.setY (s : State) (v : Word) : State := { s with y := v }

/-- `a <- v`. -/
def State.setA (s : State) (v : Byte) : State := { s with a := v }

/-- `c <- v`. -/
def State.setC (s : State) (v : Bool) : State := { s with c := v }

/-! ### The program counter (R12, R56, R78, R151) -/

/-- The address of the next sequential instruction, `(pc + 2) mod 4096` (R12, D13; log 12). -/
def State.nextPc (s : State) : CodeAddr := s.pc + 2#12

/-- The address after a skipped instruction, `(pc + 4) mod 4096` (R151, D20, D13; log 12, 19). -/
def State.skipPc (s : State) : CodeAddr := s.pc + 4#12

/-- `pc <- (pc + 2) mod 4096`: the commit of every instruction that transfers no control (R12). -/
def State.advance (s : State) : State := s.setPc s.nextPc

/-- A branch target, `{w[10:0], 0}` (R56, C1). -/
def branchTarget (addr11 : BitVec 11) : CodeAddr := addr11 ++ 0b0#1

/-- `(base + 2*count) mod 4096`: `count` instructions beyond `base` (R78, D8; log 15). -/
def skipWords (base : CodeAddr) (count : Byte) : CodeAddr := base + 2#12 * count.setWidth 12

/-- `pc <- target` if the condition holds, `pc <- (pc + 2) mod 4096` otherwise (R161). -/
def State.branchIf (s : State) (holds : Bool) (addr11 : BitVec 11) : State :=
  s.setPc (if holds then branchTarget addr11 else s.nextPc)

/-! ### The output and the two inputs (R20 to R22) -/

/-- `UartTx(b)`: the bit is appended to the output history (R7, R22; log 11). -/
def State.uartTx (s : State) (b : Bool) : State := { s with uartOut := s.uartOut ++ [b] }

/-- A sample: the next one the environment has settled, or else the free value of that sample. -/
def sampleOf (queue : List Bool) (free : Nat → Bool) (taken : Nat) : Bool :=
  match queue with
  | b :: _ => b
  | [] => free taken

/-- `ExtInt()`: the external-interrupt input as this sample delivers it (R20; log 10). -/
def State.extInt (s : State) : Bool := sampleOf s.extIntQueue Config.extInt s.extIntSamples

/-- `ClockTick()`: the clock-tick input as this sample delivers it (R21; log 10). -/
def State.clockTick (s : State) : Bool := sampleOf s.tickQueue Config.clockTick s.tickSamples

/-- The state once the external-interrupt sample is taken. -/
def State.extIntTaken (s : State) : State :=
  { s with extIntQueue := s.extIntQueue.tail, extIntSamples := s.extIntSamples + 1 }

/-- The state once the clock-tick sample is taken. -/
def State.clockTickTaken (s : State) : State :=
  { s with tickQueue := s.tickQueue.tail, tickSamples := s.tickSamples + 1 }

/-! ### Fetch (R33) -/

/-- The data address of the byte at the even address of the instruction, `pc`. -/
def State.fetchEven (s : State) : Word := s.pc.setWidth 16

/-- The data address of the byte after it, `pc + 1` (R33; for an odd `pc`, which no run reaches: log 24). -/
def State.fetchOdd (s : State) : Word := s.pc.setWidth 16 + 1#16

/-- `Fetch(pc)`: the instruction word at `pc` (R33). -/
def State.fetch (s : State) : Word :=
  joinBytes s.params.instrByteOrder (s.memRead s.fetchEven) (s.memRead s.fetchOdd)

/-- Memory stands at both addresses that the fetch reads (log 26). -/
def State.fetchable (s : State) : Bool := s.readable s.fetchEven && s.readable s.fetchOdd

/-- What the word at `pc` decodes to, under the machine's own policy on bits 7:1 (R62, R64). -/
def State.decoded (s : State) : Except Reserved Instr :=
  decodeWordWith s.params.unusedBitsPolicy s.fetch

/-- `w` placed where the next fetch reads it. -/
def State.placeWord (s : State) (w : Word) : State :=
  (s.memWrite s.fetchEven (evenByte s.params.instrByteOrder w)).memWrite s.fetchOdd
    (oddByte s.params.instrByteOrder w)

end Sys2Proof.Machine
end

