-- ==== Sys2Proof/Machine/Flags.lean ====
section
/-! DEFINITION. The one flag, carry, and the results it is computed with: `adc` (spec R125), the carry
functions and the rotates (R75, R76, R79, R80), and the order of the functions of `opr` (R73). -/

namespace Sys2Proof.Machine

/-- The 9-bit sum `a + m + c` of R125. -/
def adcSum (a m : Byte) (c : Bool) : Nat := a.toNat + m.toNat + c.toNat

/-- `s[7:0]` (R125). -/
def adcByte (a m : Byte) (c : Bool) : Byte := BitVec.ofNat 8 (adcSum a m c)

/-- `s[8]`, 1 iff `s >= 256` (R125, D10; log 17). -/
def adcCarry (a m : Byte) (c : Bool) : Bool := decide (256 ≤ adcSum a m c)

/-- The carry after the `cy` function (R79, R80), done before any rotate (R73). -/
def carryFn (cy : CarryFn) (c : Bool) : Bool :=
  match cy with
  | .keep => c
  | .clc => false
  | .sec => true

/-- `{a[6:0], c}` (R75). -/
def rlcByte (a : Byte) (c : Bool) : Byte := a.extractLsb' 0 7 ++ BitVec.ofBool c

/-- Old `a[7]` (R75, D11; log 18). -/
def rlcCarry (a : Byte) : Bool := a.getLsbD 7

/-- `{c, a[7:1]}` (R76). -/
def rrcByte (a : Byte) (c : Bool) : Byte := BitVec.ofBool c ++ a.extractLsb' 1 7

/-- Old `a[0]` (R76, D11; log 18). -/
def rrcCarry (a : Byte) : Bool := a.getLsbD 0

/-- The accumulator after the `rot` function, with `c` the carry rotated in (R70). -/
def rotByte (rot : Rot) (a : Byte) (c : Bool) : Byte :=
  match rot with
  | .keep => a
  | .rlc => rlcByte a c
  | .rrc => rrcByte a c

/-- The carry after the `rot` function (R70). -/
def rotCarry (rot : Rot) (a : Byte) (c : Bool) : Bool :=
  match rot with
  | .keep => c
  | .rlc => rlcCarry a
  | .rrc => rrcCarry a

/-- The accumulator value that `tax`, `tay` and `apc` read, of the one at the start and the rotated one
(R73 `OPR_A_SOURCE`, D3; log 3). -/
def oprSource (source : OprASource) (start rotated : Byte) : Byte :=
  match source with
  | .start => start
  | .rotated => rotated

/-- `{a, y[15:8]}` (R82). -/
def tayWord (a : Byte) (y : Word) : Word := a ++ y.extractLsb' 8 8

end Sys2Proof.Machine
end

