-- ==== Sys2Proof/Machine/Operands.lean ====
section
/-! DEFINITION. The operand forms (spec R36 to R39): effective addresses, postincrement, operand fetch. -/

namespace Sys2Proof.Machine

/-- The operand forms that name a byte of memory (R36, R37, R38). -/
inductive MemOperand where
  /-- Absolute 8-bit (R36). -/
  | abs (addr8 : Byte)
  /-- Index register (R37). -/
  | idx (i : Idx)
  /-- Index register with postincrement (R38). -/
  | idxPost (i : Idx)
  deriving DecidableEq, Repr

/-- `EA_abs(w)`, the high byte zero (R36, D26). -/
def eaAbs (addr8 : Byte) : Word := addr8.setWidth 16

/-- `EA_idx(i)`: x with the high byte zero, or y (R37). -/
def State.eaIdx (s : State) (i : Idx) : Word :=
  match i with
  | .x => s.x.setWidth 16
  | .y => s.y

/-- `PostInc(i)` (R38): x modulo 256, y modulo 65536 (D13; log 12). -/
def State.postInc (s : State) (i : Idx) : State :=
  match i with
  | .x => s.setX (s.x + 1#8)
  | .y => s.setY (s.y + 1#16)

/-- The effective address of a memory operand, from the index registers as they stand before the
instruction (R36 to R38, D14; log 13). -/
def State.ea (s : State) (o : MemOperand) : Word :=
  match o with
  | .abs addr8 => eaAbs addr8
  | .idx i => s.eaIdx i
  | .idxPost i => s.eaIdx i

/-- What the addressing mode does after the access: the increment of the postincrement form, whatever
the data (R38, D14; log 13). -/
def State.afterAccess (s : State) (o : MemOperand) : State :=
  match o with
  | .abs _ => s
  | .idx _ => s
  | .idxPost i => s.postInc i

/-- The operand byte `m` of a memory form (R110). -/
def State.operand (s : State) (o : MemOperand) : Byte := s.memRead (s.ea o)

end Sys2Proof.Machine
end

