-- ==== Sys2Proof/Machine/Acc.lean ====
section
/-! DEFINITION. `load`, `and`, `xor`, `adc` (spec R110 to R129). -/

namespace Sys2Proof.Machine

/-- `a <- m` (R111). -/
def State.loadByte (s : State) (m : Byte) : State := s.setA m

/-- `a <- a & m` (R115). -/
def State.andByte (s : State) (m : Byte) : State := s.setA (s.a &&& m)

/-- `a <- a ^ m` (R120). -/
def State.xorByte (s : State) (m : Byte) : State := s.setA (s.a ^^^ m)

/-- `a <- s[7:0]`, `c <- s[8]` for `s = a + m + c` (R125). -/
def State.adcWith (s : State) (m : Byte) : State :=
  (s.setA (adcByte s.a m s.c)).setC (adcCarry s.a m s.c)

/-- A memory form (R110): the operand is read, the operation applied, the index register incremented
after the read in the postincrement form, and `pc` advanced. -/
def State.accMem (s : State) (op : State → Byte → State) (o : MemOperand) : State :=
  ((op s (s.operand o)).afterAccess o).advance

/-- A memory form as a meaning: its step, if the operand may be read (log 26). -/
def State.execAccMem (s : State) (op : State → Byte → State) (o : MemOperand) :
    Host.Outcome State Fault Refusal :=
  s.ifReadable (s.ea o) (s.accMem op o)

/-- R111 -/
def execLoadImm (imm8 : Byte) (s : State) : Host.Outcome State Fault Refusal :=
  .next (s.loadByte imm8).advance

/-- R112 -/
def execLoadAbs (addr8 : Byte) (s : State) : Host.Outcome State Fault Refusal :=
  s.execAccMem State.loadByte (.abs addr8)

/-- R113 -/
def execLoadIdx (idx : Idx) (s : State) : Host.Outcome State Fault Refusal :=
  s.execAccMem State.loadByte (.idx idx)

/-- R114 -/
def execLoadIdxPost (idx : Idx) (s : State) : Host.Outcome State Fault Refusal :=
  s.execAccMem State.loadByte (.idxPost idx)

/-- R116 -/
def execAndImm (imm8 : Byte) (s : State) : Host.Outcome State Fault Refusal :=
  .next (s.andByte imm8).advance

/-- R117 -/
def execAndAbs (addr8 : Byte) (s : State) : Host.Outcome State Fault Refusal :=
  s.execAccMem State.andByte (.abs addr8)

/-- R118 -/
def execAndIdx (idx : Idx) (s : State) : Host.Outcome State Fault Refusal :=
  s.execAccMem State.andByte (.idx idx)

/-- R119 -/
def execAndIdxPost (idx : Idx) (s : State) : Host.Outcome State Fault Refusal :=
  s.execAccMem State.andByte (.idxPost idx)

/-- R121 -/
def execXorImm (imm8 : Byte) (s : State) : Host.Outcome State Fault Refusal :=
  .next (s.xorByte imm8).advance

/-- R122 -/
def execXorAbs (addr8 : Byte) (s : State) : Host.Outcome State Fault Refusal :=
  s.execAccMem State.xorByte (.abs addr8)

/-- R123 -/
def execXorIdx (idx : Idx) (s : State) : Host.Outcome State Fault Refusal :=
  s.execAccMem State.xorByte (.idx idx)

/-- R124 -/
def execXorIdxPost (idx : Idx) (s : State) : Host.Outcome State Fault Refusal :=
  s.execAccMem State.xorByte (.idxPost idx)

/-- R126 -/
def execAdcImm (imm8 : Byte) (s : State) : Host.Outcome State Fault Refusal :=
  .next (s.adcWith imm8).advance

/-- R127 -/
def execAdcAbs (addr8 : Byte) (s : State) : Host.Outcome State Fault Refusal :=
  s.execAccMem State.adcWith (.abs addr8)

/-- R128 -/
def execAdcIdx (idx : Idx) (s : State) : Host.Outcome State Fault Refusal :=
  s.execAccMem State.adcWith (.idx idx)

/-- R129 -/
def execAdcIdxPost (idx : Idx) (s : State) : Host.Outcome State Fault Refusal :=
  s.execAccMem State.adcWith (.idxPost idx)

end Sys2Proof.Machine
end

