-- ==== Sys2Proof/Machine/Control.lean ====
section
/-! DEFINITION. `jump` and `call` (spec R140 to R143), `skb` (R150 to R154), `br` (R160 to R170). -/

namespace Sys2Proof.Machine

/-- R141 -/
def execJump (addr11 : BitVec 11) (s : State) : Host.Outcome State Fault Refusal :=
  .next (s.setPc (branchTarget addr11))

/-- R142: the old `ra` is lost (R143). -/
def execCall (addr11 : BitVec 11) (s : State) : Host.Outcome State Fault Refusal :=
  .next ((s.setRa s.nextPc).setPc (branchTarget addr11))

/-- Skip the next instruction iff bit `bit` of the operand equals `i` (R151); the postincrement happens
either way (R154, D14; log 13). -/
def State.skb (s : State) (i : Bool) (bit : BitVec 3) (o : MemOperand) : State :=
  (s.afterAccess o).setPc (if (s.operand o).getLsbD bit.toNat = i then s.skipPc else s.nextPc)

/-- A form of `skb` as a meaning: its step, if the operand may be read (log 26). -/
def State.execSkb (s : State) (i : Bool) (bit : BitVec 3) (o : MemOperand) :
    Host.Outcome State Fault Refusal :=
  s.ifReadable (s.ea o) (s.skb i bit o)

/-- R152 -/
def execSkbAbs (i : Bool) (bit : BitVec 3) (addr8 : Byte) (s : State) : Host.Outcome State Fault Refusal :=
  s.execSkb i bit (.abs addr8)

/-- R153 -/
def execSkbIdx (i : Bool) (bit : BitVec 3) (idx : Idx) (s : State) : Host.Outcome State Fault Refusal :=
  s.execSkb i bit (.idx idx)

/-- R154 -/
def execSkbIdxPost (i : Bool) (bit : BitVec 3) (idx : Idx) (s : State) :
    Host.Outcome State Fault Refusal :=
  s.execSkb i bit (.idxPost idx)

/-- `Cond(cond)` (R162 to R169). -/
def State.condHolds (s : State) (cond : Cond) : Bool :=
  match cond with
  | .nz => s.a != 0x00#8
  | .z => s.a == 0x00#8
  | .nc => !s.c
  | .c => s.c
  | .nint => !s.extInt
  | .int => s.extInt
  | .ntick => !s.clockTick
  | .tick => s.clockTick

/-- The state once the condition has been tested: conditions 4 and 5 take one sample of the external
interrupt, 6 and 7 one of the clock tick, 0 to 3 none (R166 to R170). -/
def State.condTested (s : State) (cond : Cond) : State :=
  match cond with
  | .nz => s
  | .z => s
  | .nc => s
  | .c => s
  | .nint => s.extIntTaken
  | .int => s.extIntTaken
  | .ntick => s.clockTickTaken
  | .tick => s.clockTickTaken

/-- R161 -/
def execBr (cond : Cond) (addr11 : BitVec 11) (s : State) : Host.Outcome State Fault Refusal :=
  .next ((s.condTested cond).branchIf (s.condHolds cond) addr11)

/-- R162 -/
def execBrNz (addr11 : BitVec 11) (s : State) : Host.Outcome State Fault Refusal :=
  .next (s.branchIf (s.a != 0x00#8) addr11)

/-- R163 -/
def execBrZ (addr11 : BitVec 11) (s : State) : Host.Outcome State Fault Refusal :=
  .next (s.branchIf (s.a == 0x00#8) addr11)

/-- R164 -/
def execBrNc (addr11 : BitVec 11) (s : State) : Host.Outcome State Fault Refusal :=
  .next (s.branchIf (!s.c) addr11)

/-- R165 -/
def execBrC (addr11 : BitVec 11) (s : State) : Host.Outcome State Fault Refusal :=
  .next (s.branchIf s.c addr11)

/-- R166 -/
def execBrNint (addr11 : BitVec 11) (s : State) : Host.Outcome State Fault Refusal :=
  .next (s.extIntTaken.branchIf (!s.extInt) addr11)

/-- R167 -/
def execBrInt (addr11 : BitVec 11) (s : State) : Host.Outcome State Fault Refusal :=
  .next (s.extIntTaken.branchIf s.extInt addr11)

/-- R168 -/
def execBrNtick (addr11 : BitVec 11) (s : State) : Host.Outcome State Fault Refusal :=
  .next (s.clockTickTaken.branchIf (!s.clockTick) addr11)

/-- R169 -/
def execBrTick (addr11 : BitVec 11) (s : State) : Host.Outcome State Fault Refusal :=
  .next (s.clockTickTaken.branchIf s.clockTick addr11)

end Sys2Proof.Machine
end

