-- ==== Sys2Proof/Machine/Opr.lean ====
section
/-! DEFINITION. `opr` (spec R70) and the named words of it (R71, R74 to R86). Each named word has the
meaning its own rule gives; that it is the `opr` of its functions is a statement, not a definition. -/

namespace Sys2Proof.Machine

/-- The transfer functions `tax` and `tay`, of the value `v` (R81, R82). -/
def State.transfer (s : State) (xfer : Xfer) (v : Byte) : State :=
  match xfer with
  | .keep => s
  | .tax => s.setX v
  | .tay => s.setY (tayWord v s.y)

/-- `npc` of `opr` (R70, R77, R78): the base is `ra` with `ret`, else the next sequential instruction;
`apc` adds `v` instructions to it. -/
def State.oprPc (s : State) (apc ret : Bool) (v : Byte) : CodeAddr :=
  let base := if ret then s.ra else s.nextPc
  if apc then skipWords base v else base

/-- The whole of `opr`, in the order of R70 and R73. -/
def State.opr (s : State) (utx apc ret : Bool) (rot : Rot) (cy : CarryFn) (xfer : Xfer) : State :=
  let c1 := carryFn cy s.c
  let a1 := rotByte rot s.a c1
  let v := oprSource s.params.oprASource s.a a1
  let sent := if utx then s.uartTx (s.a.getLsbD 0) else s
  (((sent.transfer xfer v).setA a1).setC (rotCarry rot s.a c1)).setPc (s.oprPc apc ret v)

/-- R70 -/
def execOpr (utx apc ret : Bool) (rot : Rot) (cy : CarryFn) (xfer : Xfer) (s : State) :
    Host.Outcome State Fault Refusal :=
  .next (s.opr utx apc ret rot cy xfer)

/-- R71 -/
def execNop (s : State) : Host.Outcome State Fault Refusal := .next s.advance

/-- R74 -/
def execUtx (s : State) : Host.Outcome State Fault Refusal :=
  .next (s.uartTx (s.a.getLsbD 0)).advance

/-- R78, with the base `pc + 2` (D8; log 15). -/
def execApc (s : State) : Host.Outcome State Fault Refusal :=
  .next (s.setPc (skipWords s.nextPc s.a))

/-- R77; `ra` stays (D9; log 16). -/
def execRet (s : State) : Host.Outcome State Fault Refusal := .next (s.setPc s.ra)

/-- R75 -/
def execRlc (s : State) : Host.Outcome State Fault Refusal :=
  .next ((s.setA (rlcByte s.a s.c)).setC (rlcCarry s.a)).advance

/-- R76 -/
def execRrc (s : State) : Host.Outcome State Fault Refusal :=
  .next ((s.setA (rrcByte s.a s.c)).setC (rrcCarry s.a)).advance

/-- R79 -/
def execClc (s : State) : Host.Outcome State Fault Refusal := .next (s.setC false).advance

/-- R80 -/
def execSec (s : State) : Host.Outcome State Fault Refusal := .next (s.setC true).advance

/-- R81 -/
def execTax (s : State) : Host.Outcome State Fault Refusal := .next (s.setX s.a).advance

/-- R82 -/
def execTay (s : State) : Host.Outcome State Fault Refusal := .next (s.setY (tayWord s.a s.y)).advance

/-- R83: `c <- a[7]`, `a <- (2*a) mod 256`; the old carry is discarded. -/
def execLsl (s : State) : Host.Outcome State Fault Refusal :=
  .next ((s.setA (s.a <<< 1)).setC (s.a.getLsbD 7)).advance

/-- R84: `c <- a[0]`, `a <- floor(a / 2)`; the old carry is discarded. -/
def execLsr (s : State) : Host.Outcome State Fault Refusal :=
  .next ((s.setA (s.a >>> 1)).setC (s.a.getLsbD 0)).advance

/-- R85: `pc <- (ra + 2*a) mod 4096`. -/
def execRetadd (s : State) : Host.Outcome State Fault Refusal := .next (s.setPc (skipWords s.ra s.a))

/-- R86: `UartTx(a[0])`, `c <- a[0]`, `a <- {1, a[7:1]}`. -/
def execUarttxr (s : State) : Host.Outcome State Fault Refusal :=
  .next (((s.uartTx (s.a.getLsbD 0)).setA (rrcByte s.a true)).setC (s.a.getLsbD 0)).advance

end Sys2Proof.Machine
end

