-- ==== Sys2Proof/Machine/Store.lean ====
section
/-! DEFINITION. `store` (spec R100 to R103). -/

namespace Sys2Proof.Machine

/-- The accumulator written at the effective address, then what the addressing mode does (R100). -/
def State.store (s : State) (o : MemOperand) : State :=
  ((s.memWrite (s.ea o) s.a).afterAccess o).advance

/-- A form as a meaning: its step, if the address may be written (R32; log 26). -/
def State.execStore (s : State) (o : MemOperand) : Host.Outcome State Fault Refusal :=
  s.ifWritable (s.ea o) (s.store o)

/-- R101 -/
def execStoreAbs (addr8 : Byte) (s : State) : Host.Outcome State Fault Refusal :=
  s.execStore (.abs addr8)

/-- R102 -/
def execStoreIdx (idx : Idx) (s : State) : Host.Outcome State Fault Refusal :=
  s.execStore (.idx idx)

/-- R103 -/
def execStoreIdxPost (idx : Idx) (s : State) : Host.Outcome State Fault Refusal :=
  s.execStore (.idxPost idx)

end Sys2Proof.Machine
end

