-- ==== Sys2Proof/Machine/Dispatch.lean ====
section
/-! DEFINITION. The meaning of every instruction: one arm per row of the opcode table. -/

namespace Sys2Proof.Machine

/-- The effect of an instruction (the rule of each stands at its meaning). -/
def exec (i : Instr) (s : State) : Host.Outcome State Fault Refusal :=
  match i with
  | .opr utx apc ret rot cy xfer => Sys2Proof.Machine.execOpr utx apc ret rot cy xfer s
  | .nop => Sys2Proof.Machine.execNop s
  | .utx => Sys2Proof.Machine.execUtx s
  | .apc => Sys2Proof.Machine.execApc s
  | .ret => Sys2Proof.Machine.execRet s
  | .rlc => Sys2Proof.Machine.execRlc s
  | .rrc => Sys2Proof.Machine.execRrc s
  | .clc => Sys2Proof.Machine.execClc s
  | .sec => Sys2Proof.Machine.execSec s
  | .tax => Sys2Proof.Machine.execTax s
  | .tay => Sys2Proof.Machine.execTay s
  | .lsl => Sys2Proof.Machine.execLsl s
  | .lsr => Sys2Proof.Machine.execLsr s
  | .retadd => Sys2Proof.Machine.execRetadd s
  | .uarttxr => Sys2Proof.Machine.execUarttxr s
  | .storeAbs addr8 => Sys2Proof.Machine.execStoreAbs addr8 s
  | .storeIdx idx => Sys2Proof.Machine.execStoreIdx idx s
  | .storeIdxPost idx => Sys2Proof.Machine.execStoreIdxPost idx s
  | .loadImm imm8 => Sys2Proof.Machine.execLoadImm imm8 s
  | .loadAbs addr8 => Sys2Proof.Machine.execLoadAbs addr8 s
  | .loadIdx idx => Sys2Proof.Machine.execLoadIdx idx s
  | .loadIdxPost idx => Sys2Proof.Machine.execLoadIdxPost idx s
  | .andImm imm8 => Sys2Proof.Machine.execAndImm imm8 s
  | .andAbs addr8 => Sys2Proof.Machine.execAndAbs addr8 s
  | .andIdx idx => Sys2Proof.Machine.execAndIdx idx s
  | .andIdxPost idx => Sys2Proof.Machine.execAndIdxPost idx s
  | .xorImm imm8 => Sys2Proof.Machine.execXorImm imm8 s
  | .xorAbs addr8 => Sys2Proof.Machine.execXorAbs addr8 s
  | .xorIdx idx => Sys2Proof.Machine.execXorIdx idx s
  | .xorIdxPost idx => Sys2Proof.Machine.execXorIdxPost idx s
  | .adcImm imm8 => Sys2Proof.Machine.execAdcImm imm8 s
  | .adcAbs addr8 => Sys2Proof.Machine.execAdcAbs addr8 s
  | .adcIdx idx => Sys2Proof.Machine.execAdcIdx idx s
  | .adcIdxPost idx => Sys2Proof.Machine.execAdcIdxPost idx s
  | .jump addr11 => Sys2Proof.Machine.execJump addr11 s
  | .call addr11 => Sys2Proof.Machine.execCall addr11 s
  | .skbAbs pol bit addr8 => Sys2Proof.Machine.execSkbAbs pol bit addr8 s
  | .skbIdx pol bit idx => Sys2Proof.Machine.execSkbIdx pol bit idx s
  | .skbIdxPost pol bit idx => Sys2Proof.Machine.execSkbIdxPost pol bit idx s
  | .br cond addr11 => Sys2Proof.Machine.execBr cond addr11 s
  | .brNz addr11 => Sys2Proof.Machine.execBrNz addr11 s
  | .brZ addr11 => Sys2Proof.Machine.execBrZ addr11 s
  | .brNc addr11 => Sys2Proof.Machine.execBrNc addr11 s
  | .brC addr11 => Sys2Proof.Machine.execBrC addr11 s
  | .brNint addr11 => Sys2Proof.Machine.execBrNint addr11 s
  | .brInt addr11 => Sys2Proof.Machine.execBrInt addr11 s
  | .brNtick addr11 => Sys2Proof.Machine.execBrNtick addr11 s
  | .brTick addr11 => Sys2Proof.Machine.execBrTick addr11 s

end Sys2Proof.Machine
end

