-- ==== Sys2Proof/Machine/Step.lean ====
section
/-! DEFINITION. One step: fetch, decode, execute (spec R7, R12, R33, R64). -/

namespace Sys2Proof.Machine

/-- What a decoded word does: the effect of its instruction, or a refusal that names the reserved class
and the word, as `RESERVED_POLICY` says (R5, R62, R181; log 4). -/
def execDecoded (w : Word) (d : Except Reserved Instr) (s : State) : Host.Outcome State Fault Refusal :=
  match d with
  | .ok i => exec i s
  | .error r =>
    match s.params.reservedPolicy with
    | .refuse => .refused (.reservedEncoding r w)

/-- One instruction, to completion (R42), if memory stands where it is fetched (log 26). -/
def step (s : State) : Host.Outcome State Fault Refusal :=
  if s.fetchable = true then execDecoded s.fetch s.decoded s
  else .refused (.outsideMemMap .fetch s.fetchEven)

/-- `s` with the table word `w` of `nbits` bits, the bits above them zero, where `step` fetches next. It
stands for the platform's loading of a program before the run (R201, R209; log 21). -/
def State.withFetchWord (s : State) (nbits w : Nat) : State :=
  s.placeWord (BitVec.ofNat 16 (w % 2 ^ nbits))

end Sys2Proof.Machine
end

