-- ==== Sys2Proof/Safety.lean ====
section
/-! DEFINITION. The terms claims use: the invariant of the machine, a safe step, the end of a run, the
write sets of the instructions (spec R26), and repeated execution of one instruction. -/

namespace Sys2Proof.Machine

/-- Bit 0 is zero (R10, R11, R13). -/
def evenAddr (addr : CodeAddr) : Bool := !addr.getLsbD 0

/-- What the spec says of every state: `pc` and `ra` are even (R10, R11, R13), and memory is in its
canonical form. -/
abbrev State.Inv (s : State) : Prop :=
  evenAddr s.pc = true ∧ evenAddr s.ra = true ∧ s.mem.wf = true

/-- The next step has a meaning: the word at `pc` is no reserved word (R181), and every access is one that the
memory map admits (R32). -/
def State.CanStep (s : State) : Prop := ∃ t, step s = .next t

/-- The end of a run by the spec's convention: the word at `pc` is a `jump` to its own address (R207, D23). -/
def State.AtSelfJump (s : State) : Prop :=
  s.fetchable = true ∧ s.fetch.extractLsb' 11 5 = jumpOpcode ∧ branchTarget (s.fetch.extractLsb' 0 11) = s.pc

/-- The address that an instruction stores to: the effective address of a `store`, from the index registers
as they stand before it (R101 to R103, R38); none for every other instruction (R32). -/
def storeAddress (i : Instr) (s : State) : Option Word :=
  match i with
  | .storeAbs addr8 => some (eaAbs addr8)
  | .storeIdx idx => some (s.eaIdx idx)
  | .storeIdxPost idx => some (s.eaIdx idx)
  | _ => none

/-- The address that an instruction reads as data: the effective address of `load`, `and`, `xor`, `adc` and `skb`
in a memory form (R31, R40); none for every other instruction. -/
def readAddress (i : Instr) (s : State) : Option Word :=
  match i with
  | .loadAbs addr8 => some (eaAbs addr8)
  | .loadIdx idx => some (s.eaIdx idx)
  | .loadIdxPost idx => some (s.eaIdx idx)
  | .andAbs addr8 => some (eaAbs addr8)
  | .andIdx idx => some (s.eaIdx idx)
  | .andIdxPost idx => some (s.eaIdx idx)
  | .xorAbs addr8 => some (eaAbs addr8)
  | .xorIdx idx => some (s.eaIdx idx)
  | .xorIdxPost idx => some (s.eaIdx idx)
  | .adcAbs addr8 => some (eaAbs addr8)
  | .adcIdx idx => some (s.eaIdx idx)
  | .adcIdxPost idx => some (s.eaIdx idx)
  | .skbAbs _ _ addr8 => some (eaAbs addr8)
  | .skbIdx _ _ idx => some (s.eaIdx idx)
  | .skbIdxPost _ _ idx => some (s.eaIdx idx)
  | _ => none

/-- The memory map admits the one access that the instruction makes, if it makes one (R32, R40; log 26). -/
def State.admits (s : State) (i : Instr) : Bool :=
  (readAddress i s).all s.readable && (storeAddress i s).all s.writable

/-- One instruction executed `n` times in a row, stopping at the first step that is not next. -/
def execTimes (i : Instr) : Nat → State → Host.Outcome State Fault Refusal
  | 0, s => .next s
  | n + 1, s =>
    match exec i s with
    | .next t => execTimes i n t
    | .fault f => .fault f
    | .refused r => .refused r

end Sys2Proof.Machine

namespace Sys2Proof

/-- The forms of `store`, the only instruction that writes memory (R32). -/
def Instr.writesMem : Instr → Bool
  | .storeAbs _ => true
  | .storeIdx _ => true
  | .storeIdxPost _ => true
  | _ => false

/-- `call`, the only instruction that writes `ra` (R13). -/
def Instr.writesRa : Instr → Bool
  | .call _ => true
  | _ => false

/-- The instructions that read `ra`: those with the `ret` function (R13). -/
def Instr.readsRa : Instr → Bool
  | .opr _ _ r _ _ _ => r
  | .ret => true
  | .retadd => true
  | _ => false

/-- The index register that a postincrement form increments (R38). -/
def Instr.increments : Instr → Option Idx
  | .storeIdxPost i => some i
  | .loadIdxPost i => some i
  | .andIdxPost i => some i
  | .xorIdxPost i => some i
  | .adcIdxPost i => some i
  | .skbIdxPost _ _ i => some i
  | _ => none

/-- The writers of `x` (R14): `tax`, and postincrement with idx = 0. -/
def Instr.writesX (j : Instr) : Bool :=
  match j with
  | .opr _ _ _ _ _ xfer => xfer == .tax
  | .tax => true
  | _ => j.increments == some .x

/-- The writers of `y` (R15): `tay`, and postincrement with idx = 1. -/
def Instr.writesY (j : Instr) : Bool :=
  match j with
  | .opr _ _ _ _ _ xfer => xfer == .tay
  | .tay => true
  | _ => j.increments == some .y

/-- The writers of `a` (R16): `load`, `and`, `xor`, `adc`, and the rotates. -/
def Instr.writesA : Instr → Bool
  | .opr _ _ _ rot _ _ => rot != .keep
  | .rlc => true
  | .rrc => true
  | .lsl => true
  | .lsr => true
  | .uarttxr => true
  | .loadImm _ => true
  | .loadAbs _ => true
  | .loadIdx _ => true
  | .loadIdxPost _ => true
  | .andImm _ => true
  | .andAbs _ => true
  | .andIdx _ => true
  | .andIdxPost _ => true
  | .xorImm _ => true
  | .xorAbs _ => true
  | .xorIdx _ => true
  | .xorIdxPost _ => true
  | .adcImm _ => true
  | .adcAbs _ => true
  | .adcIdx _ => true
  | .adcIdxPost _ => true
  | _ => false

/-- The writers of `c` (R17): `adc`, `clc`, `sec`, and the rotates. -/
def Instr.writesC : Instr → Bool
  | .opr _ _ _ rot cy _ => rot != .keep || cy != .keep
  | .rlc => true
  | .rrc => true
  | .clc => true
  | .sec => true
  | .lsl => true
  | .lsr => true
  | .uarttxr => true
  | .adcImm _ => true
  | .adcAbs _ => true
  | .adcIdx _ => true
  | .adcIdxPost _ => true
  | _ => false

/-- The instructions that drive the UART output: those with the `utx` function (R22). -/
def Instr.sendsBit : Instr → Bool
  | .opr u _ _ _ _ _ => u
  | .utx => true
  | .uarttxr => true
  | _ => false

/-- The instructions that sample the external interrupt: `br` with cond 4 or 5 (R20). -/
def Instr.samplesExtInt : Instr → Bool
  | .br .nint _ => true
  | .br .int _ => true
  | .brNint _ => true
  | .brInt _ => true
  | _ => false

/-- The instructions that sample the clock tick: `br` with cond 6 or 7 (R21). -/
def Instr.samplesTick : Instr → Bool
  | .br .ntick _ => true
  | .br .tick _ => true
  | .brNtick _ => true
  | .brTick _ => true
  | _ => false

/-- The instructions after which `pc` may be other than `(pc + 2) mod 4096` (R12). -/
def Instr.transfersControl : Instr → Bool
  | .opr _ p r _ _ _ => p || r
  | .apc => true
  | .ret => true
  | .retadd => true
  | .jump _ => true
  | .call _ => true
  | .skbAbs _ _ _ => true
  | .skbIdx _ _ _ => true
  | .skbIdxPost _ _ _ => true
  | .br _ _ => true
  | .brNz _ => true
  | .brZ _ => true
  | .brNc _ => true
  | .brC _ => true
  | .brNint _ => true
  | .brInt _ => true
  | .brNtick _ => true
  | .brTick _ => true
  | _ => false

end Sys2Proof
end

