-- ==== Sys2Proof/Certificates/Slice0/Obligations.lean ====
section
/-! DEFINITION. The statements for the provers. A statement of an instruction's effect is an equation
`exec i s = .next ...` for every state, so it says at once that the instruction completes, what it
writes and that it writes nothing else. -/

open Sys2Proof Sys2Proof.Machine

/-! ### Decoding and encoding -/

/-- One word of every family, written from the encoding rows of R57, R60 and R160, decodes to its
instruction. `jump` and `call`: reconstructed opcodes, R61, log 2. -/
def Obligations.DecodesWordsOfEachFamily : Prop :=
  decodeWord 0x013E#16 = .ok (.opr true false false .rrc .sec .tax) ∧
  decodeWord 0x00C0#16 = .ok .retadd ∧
  decodeWord 0x3001#16 = .ok (.storeIdxPost .y) ∧
  decodeWord 0x4041#16 = .ok (.loadImm 0x41#8) ∧
  decodeWord 0x6101#16 = .ok (.andIdx .y) ∧
  decodeWord 0x5220#16 = .ok (.xorAbs 0x20#8) ∧
  decodeWord 0x7300#16 = .ok (.adcIdxPost .x) ∧
  decodeWord 0x8015#16 = .ok (.jump 0x015#11) ∧
  decodeWord 0x8810#16 = .ok (.call 0x010#11) ∧
  decodeWord 0xBC00#16 = .ok (.skbIdxPost true 4#3 .x) ∧
  decodeWord 0xE900#16 = .ok (.brInt 0x100#11)

/-- Every well-formed instruction, with every operand, decodes from its own encoding (R60, R64), under either
policy on bits 7:1. -/
def Obligations.DecodeOfEncodeIsTheInstruction : Prop :=
  ∀ (policy : UnusedBitsPolicy) (i : Instr), i.wellFormed = true →
    decodeWordWith policy (encode i) = .ok i

/-- Every instruction, under whichever of its names (R64, "alias_of"; log 22), decodes from its encoding
to its canonical name, which has the same encoding; the well-formed instructions are those that bear it. -/
def Obligations.DecodeOfEncodeIsTheCanonicalName : Prop :=
  ∀ (policy : UnusedBitsPolicy) (i : Instr),
    decodeWordWith policy (encode i) = .ok (canonical i) ∧ encode (canonical i) = encode i ∧
    (i.wellFormed = true ↔ canonical i = i)

/-- Under the default `UNUSED_BITS_POLICY = refuse` (D6, log 5) no two words decode alike: encoding what was
decoded gives the word back (R60, R64). Under `ignore` this is false, as `IgnorePolicyReadsUnusedBitsAsZero` shows.
That the term decoded is well-formed says that it bears the name the model gives its word (the model's choice,
log 22). -/
def Obligations.EncodeOfDecodeIsTheWord : Prop :=
  ∀ (w : Word) (i : Instr), decodeWord w = .ok i → encode i = w ∧ i.wellFormed = true

/-- The reserved words are exactly the classes V1 to V5 of R62, under the default policies. Where a word
meets two classes the model names the one of the opcode bits (log 4). -/
def Obligations.ReservedClassesAreExact : Prop :=
  ∀ w : Word,
    (decodeWord w = .error .oprReservedField ↔
      w.extractLsb' 12 4 = 0b0000#4 ∧ w.extractLsb' 9 3 ≠ 0b000#3) ∧
    (decodeWord w = .error .oprUnlistedValue ↔
      w.extractLsb' 12 4 = 0b0000#4 ∧ w.extractLsb' 9 3 = 0b000#3 ∧
      (w.extractLsb' 4 2 = 0b01#2 ∨ w.extractLsb' 2 2 = 0b01#2 ∨ w.extractLsb' 0 2 = 0b01#2)) ∧
    (decodeWord w = .error .storeOpcodeBits ↔
      (w.extractLsb' 12 4 = 0b0001#4 ∨ w.extractLsb' 12 4 = 0b0010#4 ∨ w.extractLsb' 12 4 = 0b0011#4) ∧
      w.extractLsb' 8 4 ≠ 0b0000#4) ∧
    (decodeWord w = .error .accOpcodeBits ↔
      w.extractLsb' 14 2 = 0b01#2 ∧ w.extractLsb' 10 2 ≠ 0b00#2) ∧
    (decodeWord w = .error .indexUnusedBits ↔
      w.extractLsb' 1 7 ≠ 0b0000000#7 ∧
      ((w.extractLsb' 13 3 = 0b001#3 ∧ w.extractLsb' 8 4 = 0b0000#4) ∨
       (w.extractLsb' 13 3 = 0b011#3 ∧ w.extractLsb' 10 2 = 0b00#2) ∨
       w.extractLsb' 13 3 = 0b101#3))

/-- The other value of `UNUSED_BITS_POLICY` (R62): an indexed form is decoded as if bits 7:1 were zero,
and every other word as under the default. -/
def Obligations.IgnorePolicyReadsUnusedBitsAsZero : Prop :=
  ∀ w : Word, decodeWordWith .ignore w =
    if w.getLsbD 13 = true ∧ w.extractLsb' 14 2 ≠ 0b11#2 then decodeWordWith .refuse (w &&& 0xFF01#16)
    else decodeWordWith .refuse w

/-! ### The step -/

/-- A step runs the instruction decoded from the two bytes at `pc`, in the machine's byte order (R33: with
`little` the byte at the even address is the low byte of the word, with `big` the high one; default D1, log 1)
and under its policy on bits 7:1 (R62, R64). The step adds nothing around `exec`. -/
def Obligations.StepRunsTheDecodedInstruction : Prop :=
  ∀ (s : State) (i : Instr) (even odd : Byte) (w : Word),
    even = s.mem.read s.pc.toNat → odd = s.mem.read (s.pc.toNat + 1) →
    w = (if s.params.instrByteOrder = .little then odd ++ even else even ++ odd) →
    s.fetchable = true → decodeWordWith s.params.unusedBitsPolicy w = .ok i → step s = exec i s

/-- A step on a reserved word is refused, under the name of its class (R62, R181), `refuse` being the one
value of `RESERVED_POLICY` (R5). -/
def Obligations.ReservedWordIsRefused : Prop :=
  (∀ policy : ReservedPolicy, policy = .refuse) ∧
  ∀ (s : State) (r : Reserved), s.fetchable = true →
    decodeWordWith s.params.unusedBitsPolicy s.fetch = .error r →
      step s = .refused (.reservedEncoding r s.fetch)

/-- There is no fault (R180). A step goes on exactly when memory stands where the word is fetched, the word is
not reserved (R181) and the memory map admits the access of the instruction (R32, log 26); under the default map
(R41, D18, log 9) nothing but a reserved word stops the machine. -/
def Obligations.OnlyReservedWordsStopTheMachine : Prop :=
  ∀ s : State, (∀ f, step s ≠ .fault f) ∧
    ((∃ t, step s = .next t) ↔ s.fetchable = true ∧
      ∃ i, decodeWordWith s.params.unusedBitsPolicy s.fetch = .ok i ∧ s.admits i = true) ∧
    (s.params.memMap = memMap → ((∃ t, step s = .next t) ↔
      ∃ i, decodeWordWith s.params.unusedBitsPolicy s.fetch = .ok i))

/-- The defaults of the open parameters (R5), in the state after reset. -/
def Obligations.DefaultParametersAfterReset : Prop :=
  State.reset.params.instrByteOrder = .little ∧ State.reset.params.resetPc = 0x000#12 ∧
  State.reset.params.unusedBitsPolicy = .refuse ∧ State.reset.params.reservedPolicy = .refuse ∧
  State.reset.params.oprASource = .start ∧
  ∀ addr : Word, State.reset.readable addr = true ∧ State.reset.writable addr = true

/-- The open parameters are fixed for the machine (R5; log 25): no instruction and no step changes them. -/
def Obligations.ParametersNeverChange : Prop :=
  ∀ s t : State, (∀ i, exec i s = .next t → t.params = s.params) ∧ (step s = .next t → t.params = s.params)

/-- An instruction completes exactly where the memory map admits the access it makes, and is otherwise refused
under the kind and the address of that access (R5 `MEM_MAP`, R32, R180; log 26). -/
def Obligations.MemoryMapDecidesTheAccess : Prop :=
  ∀ (s : State) (i : Instr),
    ((∃ t, exec i s = .next t) ↔ s.admits i = true) ∧
    (∀ e, readAddress i s = some e → s.readable e = false → exec i s = .refused (.outsideMemMap .read e)) ∧
    (∀ e, storeAddress i s = some e → s.writable e = false →
      exec i s = .refused (.outsideMemMap .write e)) ∧
    (readAddress i s = none ∨ storeAddress i s = none)

/-- What a map says of an address (R5 `MEM_MAP`, R41; log 26): memory of the first region that holds it, nothing
if none does; read-only memory is read and not written; the default map holds writable memory everywhere. A fetch
where nothing stands is refused. -/
def Obligations.MemoryMapSaysWhatStandsAtAnAddress : Prop :=
  (∀ addr : Word, memKindAt [] addr = none ∧ memKindAt memMap addr = some .readWrite) ∧
  (∀ (r : MemRegion) (rest : List MemRegion) (addr : Word), memKindAt (r :: rest) addr =
    if r.first.toNat ≤ addr.toNat ∧ addr.toNat ≤ r.last.toNat then some r.kind else memKindAt rest addr) ∧
  (∀ (s : State) (addr : Word),
    (s.readable addr = true ↔ memKindAt s.params.memMap addr ≠ none) ∧
    (s.writable addr = true ↔ memKindAt s.params.memMap addr = some .readWrite)) ∧
  ∀ s : State, (s.readable (s.pc.setWidth 16) = false ∨ s.readable (s.pc.setWidth 16 + 1#16) = false) →
    step s = .refused (.outsideMemMap .fetch (s.pc.setWidth 16))

/-- An instruction placed where the next fetch reads is the one that runs next, if memory stands there; placing it
changes the two bytes at `pc` and `pc + 1` and nothing else (R33, R64), in either byte order. -/
def Obligations.PlacedInstructionRunsNext : Prop :=
  ∀ (s : State) (i : Instr), s.mem.wf = true → s.fetchable = true →
    ∃ t, t = s.withFetchWord 16 (encode i).toNat ∧ step t = exec (canonical i) t ∧
      { t with mem := s.mem } = s ∧
      ∀ b : Nat, b ≠ s.pc.toNat → b ≠ s.pc.toNat + 1 → t.mem.read b = s.mem.read b

/-- A store is seen by the very next fetch, in either byte of the word (R44, D17, log 14). -/
def Obligations.StoreIsSeenByTheNextFetch : Prop :=
  ∀ (s t : State) (i : Instr) (e : Word), s.mem.wf = true → storeAddress i s = some e →
    exec i s = .next t →
      ∃ even odd : Byte,
        even = (if e.toNat = t.pc.toNat then s.a else s.mem.read t.pc.toNat) ∧
        odd = (if e.toNat = t.pc.toNat + 1 then s.a else s.mem.read (t.pc.toNat + 1)) ∧
        t.fetch = if s.params.instrByteOrder = .little then odd ++ even else even ++ odd

/-- The end of a run by the convention of R207: a `jump` to its own address changes no state (R141). -/
def Obligations.SelfJumpChangesNothing : Prop :=
  ∀ s : State, s.AtSelfJump → step s = .next s

/-! ### Invariants and reset -/

/-- Two memories in canonical form that read alike are the same memory (R30). -/
def Obligations.CanonicalMemoryIsItsBytes : Prop :=
  ∀ m m' : Memory, m.wf = true → m'.wf = true → (∀ b : Word, m.read b.toNat = m'.read b.toNat) → m = m'

/-- Reset with any parameters and any draws (R5, R25, R200): `pc` is `RESET_PC`, nothing has been sent, no sample
of an input has been taken or settled (the model's own fields, log 10), and the parameters, the draws and the
image are in place; and the state after reset is the one with the default parameters, `RESET_PC` 0x000 among them
(D12, log 6), and every draw zero (the model's choice, log 7). -/
def Obligations.ResetLeavesPcZeroAndNothingSent : Prop :=
  (∀ (p : Params) (ra : CodeAddr) (x : Byte) (y : Word) (a : Byte) (c : Bool) (image : Memory),
    ∃ s, s = State.powerOn p ra x y a c image ∧ s.params = p ∧ s.pc = p.resetPc ∧ s.uartOut = [] ∧
      s.ra = ra ∧ s.x = x ∧ s.y = y ∧ s.a = a ∧ s.c = c ∧ s.mem = image ∧
      s.extIntQueue = [] ∧ s.extIntSamples = 0 ∧ s.tickQueue = [] ∧ s.tickSamples = 0) ∧
  State.reset = State.powerOn .default 0x000#12 0x00#8 0x0000#16 0x00#8 false [] ∧
  State.reset.pc = 0x000#12

/-- The invariant holds after reset, and after a reset with any even `RESET_PC`, any even draw of `ra` and any
image in canonical form (R5, R10, R25). -/
def Obligations.ResetMeetsTheInvariant : Prop :=
  State.reset.Inv ∧
  ∀ (p : Params) (ra : CodeAddr) (x : Byte) (y : Word) (a : Byte) (c : Bool) (image : Memory),
    evenAddr p.resetPc = true → evenAddr ra = true → image.wf = true →
      (State.powerOn p ra x y a c image).Inv

/-- Every step keeps the invariant: `pc` and `ra` stay even and memory stays canonical (R11, R13). -/
def Obligations.StepKeepsTheInvariant : Prop :=
  ∀ s t : State, s.Inv → step s = .next t → t.Inv

/-! ### Frames: what an instruction may write -/

/-- R32: one byte, the whole accumulator, at the effective address, by the forms of `store`; nothing else
writes memory. -/
def Obligations.OnlyStoreWritesMemory : Prop :=
  ∀ (s t : State) (i : Instr), exec i s = .next t →
    ((storeAddress i s).isSome = i.writesMem) ∧
    (storeAddress i s = none → t.mem = s.mem) ∧
    (∀ e, storeAddress i s = some e → s.mem.wf = true →
      t.mem.read e.toNat = s.a ∧ ∀ b : Nat, b ≠ e.toNat → t.mem.read b = s.mem.read b)

/-- Every register and the output change only under the instructions that R26 (and R12 to R17, R20 to
R22) name as their writers. -/
def Obligations.RegisterWriteSets : Prop :=
  ∀ (s t : State) (i : Instr), exec i s = .next t →
    (i.transfersControl = false → t.pc = s.pc + 2#12) ∧
    (i.writesRa = false → t.ra = s.ra) ∧
    (i.writesX = false → t.x = s.x) ∧
    (i.writesY = false → t.y = s.y) ∧
    (i.writesA = false → t.a = s.a) ∧
    (i.writesC = false → t.c = s.c) ∧
    (i.sendsBit = false → t.uartOut = s.uartOut) ∧
    (i.sendsBit = true → t.uartOut = s.uartOut ++ [s.a.getLsbD 0])

/-- The frame of the forms of `store`: `ra`, `a`, `c`, the output and the inputs are unchanged, `pc`
advances, the index registers change by the postincrement alone, and every byte but the one at the
address stored to is unchanged (R38, R100). -/
def Obligations.StoreFrame : Prop :=
  ∀ (s t : State) (i : Instr) (e : Word), s.mem.wf = true → storeAddress i s = some e →
    exec i s = .next t →
      t.pc = s.pc + 2#12 ∧ t.ra = s.ra ∧ t.a = s.a ∧ t.c = s.c ∧ t.uartOut = s.uartOut ∧
      t.params = s.params ∧ t.extIntQueue = s.extIntQueue ∧ t.extIntSamples = s.extIntSamples ∧
      t.tickQueue = s.tickQueue ∧ t.tickSamples = s.tickSamples ∧
      t.x = (if i.increments = some .x then s.x + 1#8 else s.x) ∧
      t.y = (if i.increments = some .y then s.y + 1#16 else s.y) ∧
      (∀ b : Word, b ≠ e → t.memRead b = s.memRead b)

/-- The inputs are sampled by `br` with cond 4 to 7 alone, one sample a time, and no other instruction
depends on them (R20, R21, R166 to R169). -/
def Obligations.InputsAreSampledByBrAlone : Prop :=
  ∀ (s t : State) (i : Instr), exec i s = .next t →
    t.extIntSamples = s.extIntSamples + (if i.samplesExtInt = true then 1 else 0) ∧
    t.tickSamples = s.tickSamples + (if i.samplesTick = true then 1 else 0) ∧
    (i.samplesExtInt = false → ∀ q n,
      exec i { s with extIntQueue := q, extIntSamples := n } =
        .next { t with extIntQueue := q, extIntSamples := n }) ∧
    (i.samplesTick = false → ∀ q n,
      exec i { s with tickQueue := q, tickSamples := n } =
        .next { t with tickQueue := q, tickSamples := n })

/-- The output history only grows, by at most one bit a step, and no step depends on it (R22, R24). -/
def Obligations.UartHistoryGrowsAndIsNeverRead : Prop :=
  ∀ s t : State, step s = .next t →
    ∃ sent : List Bool, sent.length ≤ 1 ∧ t.uartOut = s.uartOut ++ sent ∧
      ∀ history : List Bool,
        step { s with uartOut := history } = .next { t with uartOut := history ++ sent }

/-- `ra` is read by the `ret` function alone: any other instruction does the same whatever `ra` holds
(R13, R208). -/
def Obligations.ReturnAddressIsReadByRetAlone : Prop :=
  ∀ (s t : State) (i : Instr) (v : CodeAddr), i.readsRa = false → exec i s = .next t →
    exec i { s with ra := v } = .next { t with ra := if i.writesRa = true then t.ra else v }

/-! ### `opr` -/

/-- A name of the table with "alias_of" and the instruction it names have one meaning (R64, R83 to R87,
R161). -/
def Obligations.CanonicalNameKeepsTheMeaning : Prop :=
  ∀ (i : Instr) (s : State), exec (canonical i) s = exec i s

/-- The whole of `opr`, every combination of its functions, in numbers (R70, R72, R73, R87). Which accumulator
`tax`, `tay`, `apc` read is `OPR_A_SOURCE`: the one at the start, or the one after the rotate (R5, D3, log 3; the
base and scale of `apc`: D8, log 15; the carry out of the rotates: D11, log 18). -/
def Obligations.OprCombinesItsFunctions : Prop :=
  ∀ (u p r : Bool) (rot : Rot) (cy : CarryFn) (xfer : Xfer) (s : State),
    decodeWord (encodeOpr u p r rot cy xfer) = .ok (nameOpr u p r rot cy xfer) ∧
    ∃ (c1 : Bool) (a1 v : Byte),
    c1 = (if cy = .clc then false else if cy = .sec then true else s.c) ∧
    a1 = BitVec.ofNat 8 (match rot with
      | .keep => s.a.toNat
      | .rlc => 2 * s.a.toNat + c1.toNat
      | .rrc => s.a.toNat / 2 + 128 * c1.toNat) ∧
    v = (if s.params.oprASource = .start then s.a else a1) ∧
    exec (.opr u p r rot cy xfer) s = .next { s with
      uartOut := if u then s.uartOut ++ [s.a.getLsbD 0] else s.uartOut
      a := a1
      c := match rot with
        | .keep => c1
        | .rlc => decide (128 ≤ s.a.toNat)
        | .rrc => decide (s.a.toNat % 2 = 1)
      x := if xfer = .tax then v else s.x
      y := if xfer = .tay then BitVec.ofNat 16 (256 * v.toNat + s.y.toNat / 256) else s.y
      pc := BitVec.ofNat 12
        ((if r then s.ra.toNat else s.pc.toNat + 2) + (if p then 2 * v.toNat else 0)) }

/-- `nop` (R71): only `pc` changes. -/
def Obligations.NopAdvancesThePcAlone : Prop :=
  decodeWord 0x0000#16 = .ok .nop ∧ encodeOpr false false false .keep .keep .keep = 0x0000#16 ∧
  ∀ s : State, exec .nop s = .next { s with pc := BitVec.ofNat 12 ((s.pc.toNat + 2) % 4096) }

/-- `utx` (R74): the bit sent is bit 0 of the accumulator before any rotate of the word; `utx` itself
changes nothing else. -/
def Obligations.UtxSendsBitZeroBeforeAnyRotate : Prop :=
  decodeWord 0x0100#16 = .ok .utx ∧
  (∀ s : State, exec .utx s =
    .next { s with uartOut := s.uartOut ++ [s.a.getLsbD 0], pc := s.pc + 2#12 }) ∧
  ∀ (p r : Bool) (rot : Rot) (cy : CarryFn) (xfer : Xfer) (s : State),
    exec (.opr true p r rot cy xfer) s =
      exec (.opr false p r rot cy xfer) { s with uartOut := s.uartOut ++ [s.a.getLsbD 0] }

/-- `clc` (R79): the carry is cleared before any rotate of the word. -/
def Obligations.ClcClearsCarryBeforeAnyRotate : Prop :=
  decodeWord 0x0008#16 = .ok .clc ∧
  (∀ s : State, exec .clc s = .next { s with c := false, pc := s.pc + 2#12 }) ∧
  ∀ (u p r : Bool) (rot : Rot) (xfer : Xfer) (s : State),
    exec (.opr u p r rot .clc xfer) s = exec (.opr u p r rot .keep xfer) { s with c := false }

/-- `sec` (R80): the carry is set before any rotate of the word. -/
def Obligations.SecSetsCarryBeforeAnyRotate : Prop :=
  decodeWord 0x000C#16 = .ok .sec ∧
  (∀ s : State, exec .sec s = .next { s with c := true, pc := s.pc + 2#12 }) ∧
  ∀ (u p r : Bool) (rot : Rot) (xfer : Xfer) (s : State),
    exec (.opr u p r rot .sec xfer) s = exec (.opr u p r rot .keep xfer) { s with c := true }

/-- `rlc` and `rrc` (R75, R76; carry out D11, log 18): the 9-bit rotation of carry and accumulator by one
place, in numbers. -/
def Obligations.RotatesGoThroughTheCarry : Prop :=
  decodeWord 0x0020#16 = .ok .rlc ∧ decodeWord 0x0030#16 = .ok .rrc ∧
  (∀ s : State, exec .rlc s = .next { s with
    a := BitVec.ofNat 8 (2 * s.a.toNat + s.c.toNat), c := decide (128 ≤ s.a.toNat), pc := s.pc + 2#12 }) ∧
  (∀ s : State, exec .rrc s = .next { s with
    a := BitVec.ofNat 8 (s.a.toNat / 2 + 128 * s.c.toNat), c := decide (s.a.toNat % 2 = 1),
    pc := s.pc + 2#12 })

/-- Nine rotates in a row restore accumulator and carry (R75, R76, corner cases). -/
def Obligations.NineRotatesRestoreAccumulatorAndCarry : Prop :=
  ∀ s : State, execTimes .rlc 9 s = .next { s with pc := s.pc + 18#12 } ∧
    execTimes .rrc 9 s = .next { s with pc := s.pc + 18#12 }

/-- `lsl` (R83): `clc rlc`, doubling modulo 256 with the bit shifted out in the carry. -/
def Obligations.LslDoublesTheAccumulator : Prop :=
  decodeWord 0x0028#16 = .ok .lsl ∧ encodeOpr false false false .rlc .clc .keep = 0x0028#16 ∧
  ∀ s : State,
    exec .lsl s = .next { s with
      a := BitVec.ofNat 8 (2 * s.a.toNat), c := s.a.getLsbD 7, pc := s.pc + 2#12 } ∧
    exec (.opr false false false .rlc .clc .keep) s = exec .lsl s

/-- `lsr` (R84): `clc rrc`, halving with the bit shifted out in the carry. -/
def Obligations.LsrHalvesTheAccumulator : Prop :=
  decodeWord 0x0038#16 = .ok .lsr ∧ encodeOpr false false false .rrc .clc .keep = 0x0038#16 ∧
  ∀ s : State,
    exec .lsr s = .next { s with
      a := BitVec.ofNat 8 (s.a.toNat / 2), c := s.a.getLsbD 0, pc := s.pc + 2#12 } ∧
    exec (.opr false false false .rrc .clc .keep) s = exec .lsr s

/-- `uarttxr` (R86): `utx sec rrc`; and the protocol for one byte: one `uarttxr` with a zero in the least
significant bit, the byte loaded, and nine more send a zero, the eight bits of the byte, least significant
first, and a one, and leave 0xFF and a set carry. -/
def Obligations.UarttxrSendsTheByteAndAStopBit : Prop :=
  decodeWord 0x013C#16 = .ok .uarttxr ∧ encodeOpr true false false .rrc .sec .keep = 0x013C#16 ∧
  (∀ s : State,
    exec .uarttxr s = .next { s with
      uartOut := s.uartOut ++ [s.a.getLsbD 0], c := s.a.getLsbD 0,
      a := BitVec.ofNat 8 (128 + s.a.toNat / 2), pc := s.pc + 2#12 } ∧
    exec (.opr true false false .rrc .sec .keep) s = exec .uarttxr s) ∧
  ∀ (s : State) (first b : Byte), ∃ t u,
    exec .uarttxr { s with a := first &&& 0xFE#8 } = .next t ∧ exec (.loadImm b) t = .next u ∧
    execTimes .uarttxr 9 u = .next { s with
      a := 0xFF#8, c := true, pc := s.pc + 22#12
      uartOut := s.uartOut ++
        [false, b.getLsbD 0, b.getLsbD 1, b.getLsbD 2, b.getLsbD 3, b.getLsbD 4, b.getLsbD 5,
          b.getLsbD 6, b.getLsbD 7, true] }

/-- `tax` (R81): a copy; in a word with a rotate, of the accumulator at the start with `OPR_A_SOURCE = start`, of the
rotated one with `rotated` (R73, D3, log 3). -/
def Obligations.TaxCopiesTheAccumulator : Prop :=
  decodeWord 0x0002#16 = .ok .tax ∧
  (∀ s : State, exec .tax s = .next { s with x := s.a, pc := s.pc + 2#12 }) ∧
  ∀ (u p r : Bool) (rot : Rot) (cy : CarryFn) (s : State), ∃ t,
    exec (.opr u p r rot cy .keep) s = .next t ∧
    exec (.opr u p r rot cy .tax) s =
      .next { t with x := if s.params.oprASource = .start then s.a else t.a }

/-- `tay` (R82): y shifted right by eight bits with the accumulator in the high byte; the worked example
of the source; two of them load all of y. -/
def Obligations.TayShiftsTheAccumulatorIntoY : Prop :=
  decodeWord 0x0003#16 = .ok .tay ∧
  (∀ s : State, exec .tay s = .next { s with y := s.a ++ s.y.extractLsb' 8 8, pc := s.pc + 2#12 }) ∧
  (∀ s : State, exec .tay { s with y := 0x1234#16, a := 0x78#8 } =
    .next { s with y := 0x7812#16, a := 0x78#8, pc := s.pc + 2#12 }) ∧
  ∀ (s t : State) (lo hi : Byte), exec .tay { s with a := lo } = .next t →
    exec .tay { t with a := hi } = .next { s with a := hi, y := hi ++ lo, pc := s.pc + 4#12 }

/-- `ret`, `apc` and `retadd` (R77, R78, R85; `ra` unchanged D9, log 16; base and scale of `apc` D8,
log 15). -/
def Obligations.RetApcRetaddSetThePc : Prop :=
  decodeWord 0x0040#16 = .ok .ret ∧ decodeWord 0x0080#16 = .ok .apc ∧ decodeWord 0x00C0#16 = .ok .retadd ∧
  ∀ s : State,
    exec .ret s = .next { s with pc := s.ra } ∧
    exec .apc s = .next { s with pc := BitVec.ofNat 12 ((s.pc.toNat + 2 + 2 * s.a.toNat) % 4096) } ∧
    exec .retadd s = .next { s with pc := BitVec.ofNat 12 ((s.ra.toNat + 2 * s.a.toNat) % 4096) }

/-! ### `store`, `load`, `and`, `xor`, `adc` -/

/-- The three forms of `store` (R101, R102, R103): encoding, address, increment, and that the byte then
reads as the accumulator. Each completes where the memory map has writable memory (R32, log 26). -/
def Obligations.StoreForms : Prop :=
  (∀ addr8 : Byte, decodeWord (0x1000#16 ||| addr8.setWidth 16) = .ok (.storeAbs addr8)) ∧
  decodeWord 0x2000#16 = .ok (.storeIdx .x) ∧ decodeWord 0x2001#16 = .ok (.storeIdx .y) ∧
  decodeWord 0x3000#16 = .ok (.storeIdxPost .x) ∧ decodeWord 0x3001#16 = .ok (.storeIdxPost .y) ∧
  ∀ s : State,
    (∀ addr8 : Byte, s.writable (addr8.setWidth 16) = true → exec (.storeAbs addr8) s =
      .next { s with mem := s.mem.write addr8.toNat s.a, pc := s.pc + 2#12 }) ∧
    (s.writable (s.x.setWidth 16) = true →
      exec (.storeIdx .x) s = .next { s with mem := s.mem.write s.x.toNat s.a, pc := s.pc + 2#12 }) ∧
    (s.writable s.y = true →
      exec (.storeIdx .y) s = .next { s with mem := s.mem.write s.y.toNat s.a, pc := s.pc + 2#12 }) ∧
    (s.writable (s.x.setWidth 16) = true →
      exec (.storeIdxPost .x) s =
      .next { s with mem := s.mem.write s.x.toNat s.a, x := s.x + 1#8, pc := s.pc + 2#12 }) ∧
    (s.writable s.y = true →
      exec (.storeIdxPost .y) s =
      .next { s with mem := s.mem.write s.y.toNat s.a, y := s.y + 1#16, pc := s.pc + 2#12 }) ∧
    (s.mem.wf = true → ∀ (addr : Word) (b : Nat),
      (s.mem.write addr.toNat s.a).read b = if b = addr.toNat then s.a else s.mem.read b)

/-- The four forms of `load` (R111 to R114), the memory forms where the memory map has memory (log 26). -/
def Obligations.LoadForms : Prop :=
  (∀ imm8 : Byte, decodeWord (0x4000#16 ||| imm8.setWidth 16) = .ok (.loadImm imm8)) ∧
  (∀ addr8 : Byte, decodeWord (0x5000#16 ||| addr8.setWidth 16) = .ok (.loadAbs addr8)) ∧
  decodeWord 0x6000#16 = .ok (.loadIdx .x) ∧ decodeWord 0x6001#16 = .ok (.loadIdx .y) ∧
  decodeWord 0x7000#16 = .ok (.loadIdxPost .x) ∧ decodeWord 0x7001#16 = .ok (.loadIdxPost .y) ∧
  ∀ s : State,
    (∀ imm8 : Byte, exec (.loadImm imm8) s = .next { s with a := imm8, pc := s.pc + 2#12 }) ∧
    (∀ addr8 : Byte, s.readable (addr8.setWidth 16) = true → exec (.loadAbs addr8) s =
      .next { s with a := s.mem.read addr8.toNat, pc := s.pc + 2#12 }) ∧
    (s.readable (s.x.setWidth 16) = true →
      exec (.loadIdx .x) s = .next { s with a := s.mem.read s.x.toNat, pc := s.pc + 2#12 }) ∧
    (s.readable s.y = true →
      exec (.loadIdx .y) s = .next { s with a := s.mem.read s.y.toNat, pc := s.pc + 2#12 }) ∧
    (s.readable (s.x.setWidth 16) = true →
      exec (.loadIdxPost .x) s =
      .next { s with a := s.mem.read s.x.toNat, x := s.x + 1#8, pc := s.pc + 2#12 }) ∧
    (s.readable s.y = true →
      exec (.loadIdxPost .y) s =
      .next { s with a := s.mem.read s.y.toNat, y := s.y + 1#16, pc := s.pc + 2#12 })

/-- The four forms of `and` (R116 to R119), the memory forms where the memory map has memory (log 26). -/
def Obligations.AndForms : Prop :=
  (∀ imm8 : Byte, decodeWord (0x4100#16 ||| imm8.setWidth 16) = .ok (.andImm imm8)) ∧
  (∀ addr8 : Byte, decodeWord (0x5100#16 ||| addr8.setWidth 16) = .ok (.andAbs addr8)) ∧
  decodeWord 0x6100#16 = .ok (.andIdx .x) ∧ decodeWord 0x6101#16 = .ok (.andIdx .y) ∧
  decodeWord 0x7100#16 = .ok (.andIdxPost .x) ∧ decodeWord 0x7101#16 = .ok (.andIdxPost .y) ∧
  ∀ s : State,
    (∀ imm8 : Byte, exec (.andImm imm8) s = .next { s with a := s.a &&& imm8, pc := s.pc + 2#12 }) ∧
    (∀ addr8 : Byte, s.readable (addr8.setWidth 16) = true → exec (.andAbs addr8) s =
      .next { s with a := s.a &&& s.mem.read addr8.toNat, pc := s.pc + 2#12 }) ∧
    (s.readable (s.x.setWidth 16) = true →
      exec (.andIdx .x) s = .next { s with a := s.a &&& s.mem.read s.x.toNat, pc := s.pc + 2#12 }) ∧
    (s.readable s.y = true →
      exec (.andIdx .y) s = .next { s with a := s.a &&& s.mem.read s.y.toNat, pc := s.pc + 2#12 }) ∧
    (s.readable (s.x.setWidth 16) = true →
      exec (.andIdxPost .x) s =
      .next { s with a := s.a &&& s.mem.read s.x.toNat, x := s.x + 1#8, pc := s.pc + 2#12 }) ∧
    (s.readable s.y = true →
      exec (.andIdxPost .y) s =
      .next { s with a := s.a &&& s.mem.read s.y.toNat, y := s.y + 1#16, pc := s.pc + 2#12 })

/-- The four forms of `xor` (R121 to R124), the memory forms where the memory map has memory (log 26). -/
def Obligations.XorForms : Prop :=
  (∀ imm8 : Byte, decodeWord (0x4200#16 ||| imm8.setWidth 16) = .ok (.xorImm imm8)) ∧
  (∀ addr8 : Byte, decodeWord (0x5200#16 ||| addr8.setWidth 16) = .ok (.xorAbs addr8)) ∧
  decodeWord 0x6200#16 = .ok (.xorIdx .x) ∧ decodeWord 0x6201#16 = .ok (.xorIdx .y) ∧
  decodeWord 0x7200#16 = .ok (.xorIdxPost .x) ∧ decodeWord 0x7201#16 = .ok (.xorIdxPost .y) ∧
  ∀ s : State,
    (∀ imm8 : Byte, exec (.xorImm imm8) s = .next { s with a := s.a ^^^ imm8, pc := s.pc + 2#12 }) ∧
    (∀ addr8 : Byte, s.readable (addr8.setWidth 16) = true → exec (.xorAbs addr8) s =
      .next { s with a := s.a ^^^ s.mem.read addr8.toNat, pc := s.pc + 2#12 }) ∧
    (s.readable (s.x.setWidth 16) = true →
      exec (.xorIdx .x) s = .next { s with a := s.a ^^^ s.mem.read s.x.toNat, pc := s.pc + 2#12 }) ∧
    (s.readable s.y = true →
      exec (.xorIdx .y) s = .next { s with a := s.a ^^^ s.mem.read s.y.toNat, pc := s.pc + 2#12 }) ∧
    (s.readable (s.x.setWidth 16) = true →
      exec (.xorIdxPost .x) s =
      .next { s with a := s.a ^^^ s.mem.read s.x.toNat, x := s.x + 1#8, pc := s.pc + 2#12 }) ∧
    (s.readable s.y = true →
      exec (.xorIdxPost .y) s =
      .next { s with a := s.a ^^^ s.mem.read s.y.toNat, y := s.y + 1#16, pc := s.pc + 2#12 })

/-- The four forms of `adc` (R125 to R129): the 9-bit sum, its low byte and its bit 8 (D10, log 17), the
memory forms where the memory map has memory (log 26). -/
def Obligations.AdcForms : Prop :=
  (∀ imm8 : Byte, decodeWord (0x4300#16 ||| imm8.setWidth 16) = .ok (.adcImm imm8)) ∧
  (∀ addr8 : Byte, decodeWord (0x5300#16 ||| addr8.setWidth 16) = .ok (.adcAbs addr8)) ∧
  decodeWord 0x6300#16 = .ok (.adcIdx .x) ∧ decodeWord 0x6301#16 = .ok (.adcIdx .y) ∧
  decodeWord 0x7300#16 = .ok (.adcIdxPost .x) ∧ decodeWord 0x7301#16 = .ok (.adcIdxPost .y) ∧
  ∀ s : State, ∃ sum : Byte → BitVec 9,
    (∀ m, sum m = s.a.setWidth 9 + m.setWidth 9 + (BitVec.ofBool s.c).setWidth 9) ∧
    (∀ imm8 : Byte, exec (.adcImm imm8) s = .next { s with
      a := (sum imm8).setWidth 8, c := (sum imm8).getLsbD 8, pc := s.pc + 2#12 }) ∧
    (∀ addr8 : Byte, s.readable (addr8.setWidth 16) = true → exec (.adcAbs addr8) s = .next { s with
      a := (sum (s.mem.read addr8.toNat)).setWidth 8, c := (sum (s.mem.read addr8.toNat)).getLsbD 8,
      pc := s.pc + 2#12 }) ∧
    (s.readable (s.x.setWidth 16) = true → exec (.adcIdx .x) s = .next { s with
      a := (sum (s.mem.read s.x.toNat)).setWidth 8, c := (sum (s.mem.read s.x.toNat)).getLsbD 8,
      pc := s.pc + 2#12 }) ∧
    (s.readable s.y = true → exec (.adcIdx .y) s = .next { s with
      a := (sum (s.mem.read s.y.toNat)).setWidth 8, c := (sum (s.mem.read s.y.toNat)).getLsbD 8,
      pc := s.pc + 2#12 }) ∧
    (s.readable (s.x.setWidth 16) = true → exec (.adcIdxPost .x) s = .next { s with
      a := (sum (s.mem.read s.x.toNat)).setWidth 8, c := (sum (s.mem.read s.x.toNat)).getLsbD 8,
      x := s.x + 1#8, pc := s.pc + 2#12 }) ∧
    (s.readable s.y = true → exec (.adcIdxPost .y) s = .next { s with
      a := (sum (s.mem.read s.y.toNat)).setWidth 8, c := (sum (s.mem.read s.y.toNat)).getLsbD 8,
      y := s.y + 1#16, pc := s.pc + 2#12 })

/-- Subtraction by complement (R131): with the complement of `q` in the accumulator and the carry set,
`adc` of `p` gives `p - q`, and the carry says that nothing was borrowed. -/
def Obligations.AdcOfTheComplementSubtracts : Prop :=
  ∀ (s : State) (p q : Byte),
    exec (.adcImm p) { s with a := q ^^^ 0xFF#8, c := true } =
      .next { s with a := p - q, c := decide (q.toNat ≤ p.toNat), pc := s.pc + 2#12 }

/-- Multi-byte addition (R130): two `adc`, the low bytes first, with only the accumulator loaded anew
between them, add 16-bit numbers and the carry. -/
def Obligations.AdcChainsAcrossBytes : Prop :=
  ∀ (s t u : State) (lo hi mlo mhi : Byte),
    exec (.adcImm mlo) { s with a := lo } = .next t →
    exec (.adcImm mhi) { t with a := hi } = .next u →
      u.a.toNat * 256 + t.a.toNat + 65536 * u.c.toNat =
        (hi.toNat * 256 + lo.toNat) + (mhi.toNat * 256 + mlo.toNat) + s.c.toNat

/-! ### `jump`, `call`, `skb`, `br` -/

/-- Branch targets (R56): twice the field, a 12-bit even address, and every even address of the
executable region is the target of exactly one field value. -/
def Obligations.BranchTargetsAreTheEvenCodeAddresses : Prop :=
  (∀ t : BitVec 11, (branchTarget t).toNat = 2 * t.toNat ∧ evenAddr (branchTarget t) = true) ∧
  ∀ addr : CodeAddr, evenAddr addr = true → ∃! t : BitVec 11, branchTarget t = addr

/-- `jump` and `call` (R140 to R143; opcodes reconstructed, D2, log 2; wrap of `ra` D13, log 12): the
target, and for `call` the next sequential address in `ra`, the old one lost. -/
def Obligations.JumpAndCallGoToTheTarget : Prop :=
  (∀ t : BitVec 11, decodeWord (0x8000#16 ||| t.setWidth 16) = .ok (.jump t)) ∧
  (∀ t : BitVec 11, decodeWord (0x8800#16 ||| t.setWidth 16) = .ok (.call t)) ∧
  ∀ (t : BitVec 11) (s : State),
    exec (.jump t) s = .next { s with pc := BitVec.ofNat 12 (2 * t.toNat) } ∧
    exec (.call t) s = .next { s with
      ra := BitVec.ofNat 12 ((s.pc.toNat + 2) % 4096), pc := BitVec.ofNat 12 (2 * t.toNat) } ∧
    ∀ old : CodeAddr, exec (.call t) { s with ra := old } = exec (.call t) s

/-- The three forms of `skb` (R150 to R154): a skip iff the bit of the memory byte equals `i`; the index
register is incremented either way (D14, log 13); the skip distance is D20, log 19. Each
completes where the memory map has memory (log 26). -/
def Obligations.SkbForms : Prop :=
  (∀ (i : Bool) (bit : BitVec 3) (addr8 : Byte),
    decodeWord (0x9000#16 ||| (BitVec.ofBool i).setWidth 16 <<< 11 ||| bit.setWidth 16 <<< 8 |||
      addr8.setWidth 16) = .ok (.skbAbs i bit addr8)) ∧
  (∀ (i : Bool) (bit : BitVec 3), ∃ w : Word,
    w = (BitVec.ofBool i).setWidth 16 <<< 11 ||| bit.setWidth 16 <<< 8 ∧
    decodeWord (0xA000#16 ||| w) = .ok (.skbIdx i bit .x) ∧
    decodeWord (0xA001#16 ||| w) = .ok (.skbIdx i bit .y) ∧
    decodeWord (0xB000#16 ||| w) = .ok (.skbIdxPost i bit .x) ∧
    decodeWord (0xB001#16 ||| w) = .ok (.skbIdxPost i bit .y)) ∧
  ∀ (s : State) (i : Bool) (bit : BitVec 3), ∃ npc : Byte → CodeAddr,
    (∀ m, npc m = if m.getLsbD bit.toNat = i then s.pc + 4#12 else s.pc + 2#12) ∧
    (∀ addr8 : Byte, s.readable (addr8.setWidth 16) = true → exec (.skbAbs i bit addr8) s =
      .next { s with pc := npc (s.mem.read addr8.toNat) }) ∧
    (s.readable (s.x.setWidth 16) = true →
      exec (.skbIdx i bit .x) s = .next { s with pc := npc (s.mem.read s.x.toNat) }) ∧
    (s.readable s.y = true → exec (.skbIdx i bit .y) s = .next { s with pc := npc (s.mem.read s.y.toNat) }) ∧
    (s.readable (s.x.setWidth 16) = true →
      exec (.skbIdxPost i bit .x) s =
      .next { s with x := s.x + 1#8, pc := npc (s.mem.read s.x.toNat) }) ∧
    (s.readable s.y = true →
      exec (.skbIdxPost i bit .y) s =
      .next { s with y := s.y + 1#16, pc := npc (s.mem.read s.y.toNat) })

/-- `br` on the accumulator (R162, R163). -/
def Obligations.BrTestsTheAccumulator : Prop :=
  (∀ t : BitVec 11, decodeWord (0xC000#16 ||| t.setWidth 16) = .ok (.brNz t)) ∧
  (∀ t : BitVec 11, decodeWord (0xC800#16 ||| t.setWidth 16) = .ok (.brZ t)) ∧
  ∀ (t : BitVec 11) (s : State),
    exec (.brNz t) s = .next { s with
      pc := if s.a ≠ 0x00#8 then BitVec.ofNat 12 (2 * t.toNat) else s.pc + 2#12 } ∧
    exec (.brZ t) s = .next { s with
      pc := if s.a = 0x00#8 then BitVec.ofNat 12 (2 * t.toNat) else s.pc + 2#12 }

/-- `br` on the carry (R164, R165). -/
def Obligations.BrTestsTheCarry : Prop :=
  (∀ t : BitVec 11, decodeWord (0xD000#16 ||| t.setWidth 16) = .ok (.brNc t)) ∧
  (∀ t : BitVec 11, decodeWord (0xD800#16 ||| t.setWidth 16) = .ok (.brC t)) ∧
  ∀ (t : BitVec 11) (s : State),
    exec (.brNc t) s = .next { s with
      pc := if s.c = false then BitVec.ofNat 12 (2 * t.toNat) else s.pc + 2#12 } ∧
    exec (.brC t) s = .next { s with
      pc := if s.c = true then BitVec.ofNat 12 (2 * t.toNat) else s.pc + 2#12 }

/-- `br` on the external interrupt (R166, R167, R170): one sample, `v`, decides: the next one the
environment has settled, or the free value of that sample where it has settled none (D15, log 10: the
queue and the count are the model's own). The statement holds whatever the free value is. -/
def Obligations.BrTestsTheExternalInterrupt : Prop :=
  (∀ t : BitVec 11, decodeWord (0xE000#16 ||| t.setWidth 16) = .ok (.brNint t)) ∧
  (∀ t : BitVec 11, decodeWord (0xE800#16 ||| t.setWidth 16) = .ok (.brInt t)) ∧
  ∀ (t : BitVec 11) (s : State), ∃ v : Bool, v = s.extIntQueue.headD (Config.extInt s.extIntSamples) ∧
    exec (.brNint t) s = .next { s with
      extIntQueue := s.extIntQueue.drop 1, extIntSamples := s.extIntSamples + 1
      pc := if v = false then BitVec.ofNat 12 (2 * t.toNat) else s.pc + 2#12 } ∧
    exec (.brInt t) s = .next { s with
      extIntQueue := s.extIntQueue.drop 1, extIntSamples := s.extIntSamples + 1
      pc := if v = true then BitVec.ofNat 12 (2 * t.toNat) else s.pc + 2#12 }

/-- `br` on the clock tick (R168, R169, R170): as for the external interrupt (D15, log 10). -/
def Obligations.BrTestsTheClockTick : Prop :=
  (∀ t : BitVec 11, decodeWord (0xF000#16 ||| t.setWidth 16) = .ok (.brNtick t)) ∧
  (∀ t : BitVec 11, decodeWord (0xF800#16 ||| t.setWidth 16) = .ok (.brTick t)) ∧
  ∀ (t : BitVec 11) (s : State), ∃ v : Bool, v = s.tickQueue.headD (Config.clockTick s.tickSamples) ∧
    exec (.brNtick t) s = .next { s with
      tickQueue := s.tickQueue.drop 1, tickSamples := s.tickSamples + 1
      pc := if v = false then BitVec.ofNat 12 (2 * t.toNat) else s.pc + 2#12 } ∧
    exec (.brTick t) s = .next { s with
      tickQueue := s.tickQueue.drop 1, tickSamples := s.tickSamples + 1
      pc := if v = true then BitVec.ofNat 12 (2 * t.toNat) else s.pc + 2#12 }

/-- `br` as a whole (R160, R161): the word of a condition and a target, the target if the condition
holds, the next instruction otherwise, and nothing else written but the record of the sample. -/
def Obligations.BrGoesToTheTargetIfTheConditionHolds : Prop :=
  ∀ (cond : Cond) (t : BitVec 11) (s : State),
    decodeWord (0xC000#16 ||| (condBits cond).setWidth 16 <<< 11 ||| t.setWidth 16) =
      .ok (nameBr cond t) ∧
    exec (.br cond t) s = .next { s.condTested cond with
      pc := if s.condHolds cond = true then BitVec.ofNat 12 (2 * t.toNat) else s.pc + 2#12 } ∧
    (cond ∈ [Cond.nz, Cond.z, Cond.nc, Cond.c] → s.condTested cond = s)

/-- Conditions 4 to 7 are not decided by registers and memory (R170): from every state at such a `br` the
environment can bring about either outcome. -/
def Obligations.EitherOutcomeOfASampledBrIsPossible : Prop :=
  ∀ (cond : Cond) (t : BitVec 11) (s : State), cond ∈ [Cond.nint, Cond.int, Cond.ntick, Cond.tick] →
    (∃ q u, exec (.br cond t) { s with extIntQueue := q, tickQueue := q } = .next u ∧
      u.pc = branchTarget t) ∧
    (∃ q u, exec (.br cond t) { s with extIntQueue := q, tickQueue := q } = .next u ∧
      u.pc = s.pc + 2#12)
end

