-- ==== Sys2Proof/Laws/Bits.lean ====
section
/-! SUPPORT. Fields of a 16-bit word put together with `++` from an 8-bit or 5-bit high part (the formats of
spec R51 to R58): a field inside the high part, a field inside the low part, single bits, and masks. -/

namespace Sys2Proof

theorem extract_append_high {m k : Nat} (h : BitVec m) (v : BitVec k) {start len : Nat}
    (hs : k ≤ start) : (h ++ v).extractLsb' start len = h.extractLsb' (start - k) len := by
  ext i hi
  simp [BitVec.getLsbD_append, show ¬ start + i < k by omega, show start + i - k = start - k + i by omega]

theorem extract_append_low {m k : Nat} (h : BitVec m) (v : BitVec k) {start len : Nat}
    (hs : start + len ≤ k) : (h ++ v).extractLsb' start len = v.extractLsb' start len := by
  ext i hi
  simp [BitVec.getLsbD_append, show start + i < k by omega]

@[simp] theorem extract_whole {k : Nat} (v : BitVec k) : v.extractLsb' 0 k = v := by
  ext i
  simp

/-! The same at the widths of the formats, where `simp` finds them. -/

@[simp] theorem extract_8_8_high (h v : BitVec 8) {start len : Nat} (hs : 8 ≤ start) :
    BitVec.extractLsb' start len (h ++ v : Word) = h.extractLsb' (start - 8) len :=
  extract_append_high h v hs

@[simp] theorem extract_8_8_low (h v : BitVec 8) {start len : Nat} (hs : start + len ≤ 8) :
    BitVec.extractLsb' start len (h ++ v : Word) = v.extractLsb' start len :=
  extract_append_low h v hs

@[simp] theorem extract_5_11_high (h : BitVec 5) (v : BitVec 11) {start len : Nat} (hs : 11 ≤ start) :
    BitVec.extractLsb' start len (h ++ v : Word) = h.extractLsb' (start - 11) len :=
  extract_append_high h v hs

@[simp] theorem extract_5_11_low (h : BitVec 5) (v : BitVec 11) {start len : Nat}
    (hs : start + len ≤ 11) : BitVec.extractLsb' start len (h ++ v : Word) = v.extractLsb' start len :=
  extract_append_low h v hs

@[simp] theorem extract_5_3_high (h : BitVec 5) (v : BitVec 3) {start len : Nat} (hs : 3 ≤ start) :
    BitVec.extractLsb' start len (h ++ v : Byte) = h.extractLsb' (start - 3) len :=
  extract_append_high h v hs

@[simp] theorem extract_5_3_low (h : BitVec 5) (v : BitVec 3) {start len : Nat} (hs : start + len ≤ 3) :
    BitVec.extractLsb' start len (h ++ v : Byte) = v.extractLsb' start len :=
  extract_append_low h v hs

theorem and_8_8 (h v mh mv : BitVec 8) :
    ((h ++ v : Word) &&& (mh ++ mv : Word)) = ((h &&& mh) ++ (v &&& mv) : Word) := by
  ext i hi
  simp only [BitVec.getElem_and, BitVec.getElem_append]
  split <;> simp

theorem and_5_11 (h mh : BitVec 5) (v mv : BitVec 11) :
    ((h ++ v : Word) &&& (mh ++ mv : Word)) = ((h &&& mh) ++ (v &&& mv) : Word) := by
  ext i hi
  simp only [BitVec.getElem_and, BitVec.getElem_append]
  split <;> simp

/-- A fixed opcode byte with a zero-extended operand or-ed in, as the rules write `w = 0x4000 | imm8`. -/
theorem opcode_or_byte (h v : BitVec 8) : ((h ++ 0#8 : Word) ||| v.setWidth 16) = (h ++ v : Word) := by
  ext i hi
  simp only [BitVec.getElem_or, BitVec.getElem_append, BitVec.getElem_setWidth]
  split
  · next h => simp [BitVec.getLsbD_eq_getElem h]
  · next h => simp [BitVec.getLsbD_of_ge v i (by omega)]

/-- A fixed 5-bit opcode with a zero-extended target or-ed in, as in `w = 0x8000 | (target / 2)`. -/
theorem opcode_or_target (h : BitVec 5) (t : BitVec 11) :
    ((h ++ 0#11 : Word) ||| t.setWidth 16) = (h ++ t : Word) := by
  ext i hi
  simp only [BitVec.getElem_or, BitVec.getElem_append, BitVec.getElem_setWidth]
  split
  · next h => simp [BitVec.getLsbD_eq_getElem h]
  · next h => simp [BitVec.getLsbD_of_ge t i (by omega)]

/-- The two bytes of a word, laid out and read back in one byte order, give the word (R33). -/
theorem joinBytes_split (order : ByteOrder) (w : Word) :
    joinBytes order (evenByte order w) (oddByte order w) = w := by
  cases order <;>
  · simp only [joinBytes, evenByte, oddByte]
    ext i hi
    simp only [BitVec.getElem_append]
    split
    · next h => simp [BitVec.getLsbD_eq_getElem (i := i) (x := w) (by omega)]
    · next h =>
      simp only [BitVec.getElem_extractLsb']
      rw [show 8 + (i - 8) = i by omega, BitVec.getLsbD_eq_getElem hi]

end Sys2Proof
end

