-- ==== Sys2Proof/Laws/Memory.lean ====
section
/-! SUPPORT. The laws of memory (spec R30 to R32): a read after a write, and that a write keeps the
canonical form. -/

namespace Sys2Proof.Machine

@[simp] theorem Memory.read_nil (addr : Nat) : Memory.read [] addr = Config.unlistedByte := rfl

theorem Memory.read_cons (k : Nat) (b : Byte) (m : Memory) (addr : Nat) :
    Memory.read ((k, b) :: m) addr = if k = addr then b else Memory.read m addr := rfl

theorem Memory.wfFrom_cons {low k : Nat} {b : Byte} {m : Memory} :
    Memory.wfFrom low ((k, b) :: m) = true ↔
      low ≤ k ∧ k < 65536 ∧ b ≠ Config.unlistedByte ∧ Memory.wfFrom (k + 1) m = true := by
  simp only [Memory.wfFrom, Bool.and_eq_true, decide_eq_true_eq, and_assoc]

theorem Memory.wfFrom_mono {low low' : Nat} {m : Memory} (h : Memory.wfFrom low m = true)
    (hle : low' ≤ low) : Memory.wfFrom low' m = true := by
  cases m with
  | nil => rfl
  | cons cell rest =>
    obtain ⟨h1, h2⟩ := Memory.wfFrom_cons.mp h
    exact Memory.wfFrom_cons.mpr ⟨hle.trans h1, h2⟩

/-- An address below every listed one reads as unlisted. -/
theorem Memory.read_below {low addr : Nat} {m : Memory} (h : Memory.wfFrom low m = true)
    (hlt : addr < low) : m.read addr = Config.unlistedByte := by
  induction m generalizing low with
  | nil => rfl
  | cons cell rest ih =>
    obtain ⟨h1, -, -, h4⟩ := Memory.wfFrom_cons.mp h
    rw [Memory.read_cons, if_neg (by omega)]
    exact ih h4 (by omega)

theorem Memory.read_consCell {addr : Nat} {v : Byte} {m : Memory}
    (h : Memory.wfFrom (addr + 1) m = true) (b : Nat) :
    (Memory.consCell addr v m).read b = if b = addr then v else m.read b := by
  unfold Memory.consCell
  split
  · next hv =>
    split
    · next hb => rw [hb, Memory.read_below h (by omega), hv]
    · rfl
  · simp [Memory.read_cons, eq_comm]

theorem Memory.wfFrom_consCell {low addr : Nat} {v : Byte} {m : Memory}
    (h : Memory.wfFrom (addr + 1) m = true) (hlow : low ≤ addr) (hlt : addr < 65536) :
    Memory.wfFrom low (Memory.consCell addr v m) = true := by
  unfold Memory.consCell
  split
  · exact Memory.wfFrom_mono h (by omega)
  · next hv => exact Memory.wfFrom_cons.mpr ⟨hlow, hlt, hv, h⟩

theorem Memory.read_write_from {low addr : Nat} {v : Byte} {m : Memory}
    (h : Memory.wfFrom low m = true) (b : Nat) :
    (m.write addr v).read b = if b = addr then v else m.read b := by
  induction m generalizing low with
  | nil => exact Memory.read_consCell (m := []) rfl b
  | cons cell rest ih =>
    obtain ⟨k, w⟩ := cell
    obtain ⟨h1, h2, h3, h4⟩ := Memory.wfFrom_cons.mp h
    rw [Memory.write]
    split
    · next hk =>
      rw [Memory.read_cons, ih h4, Memory.read_cons]
      split <;> split <;> first | rfl | omega
    · next hk =>
      split
      · next heq =>
        subst heq
        rw [Memory.read_consCell h4, Memory.read_cons]
        by_cases hb : b = k
        · rw [if_pos hb, if_pos hb]
        · rw [if_neg hb, if_neg hb, if_neg (Ne.symm hb)]
      · next hne =>
        exact Memory.read_consCell (Memory.wfFrom_cons.mpr ⟨by omega, h2, h3, h4⟩) b

theorem Memory.wfFrom_write {low addr : Nat} {v : Byte} {m : Memory}
    (h : Memory.wfFrom low m = true) (hlow : low ≤ addr) (hlt : addr < 65536) :
    Memory.wfFrom low (m.write addr v) = true := by
  induction m generalizing low with
  | nil => exact Memory.wfFrom_consCell rfl hlow hlt
  | cons cell rest ih =>
    obtain ⟨k, w⟩ := cell
    obtain ⟨h1, h2, h3, h4⟩ := Memory.wfFrom_cons.mp h
    rw [Memory.write]
    split
    · exact Memory.wfFrom_cons.mpr ⟨h1, h2, h3, ih h4 (by omega)⟩
    · split
      · next heq => exact Memory.wfFrom_consCell (heq ▸ h4) hlow hlt
      · exact Memory.wfFrom_consCell (Memory.wfFrom_cons.mpr ⟨by omega, h2, h3, h4⟩) hlow hlt

/-- A read after a write: the byte written, and every other byte as before (R31, R32). -/
theorem Memory.read_write {m : Memory} (h : m.wf = true) (addr : Nat) (v : Byte) (b : Nat) :
    (m.write addr v).read b = if b = addr then v else m.read b :=
  Memory.read_write_from h b

/-- A write keeps the canonical form. -/
theorem Memory.wf_write {m : Memory} (h : m.wf = true) {addr : Nat} (hlt : addr < 65536) (v : Byte) :
    (m.write addr v).wf = true :=
  Memory.wfFrom_write h (Nat.zero_le _) hlt

/-- A `MemWrite` keeps the canonical form: a 16-bit address is inside the memory (R30). -/
theorem State.memWrite_wf {s : State} (h : s.mem.wf = true) (addr : Word) (v : Byte) :
    (s.memWrite addr v).mem.wf = true :=
  Memory.wf_write h addr.isLt v

/-- A `MemRead` after a `MemWrite` (R31, R32). -/
theorem State.memRead_memWrite {s : State} (h : s.mem.wf = true) (addr : Word) (v : Byte) (b : Word) :
    (s.memWrite addr v).memRead b = if b = addr then v else s.memRead b := by
  simp [State.memRead, State.memWrite, Memory.read_write h, BitVec.toNat_inj]

/-- The memory of the reset state is in canonical form. -/
theorem State.reset_mem_wf : State.reset.mem.wf = true := rfl

end Sys2Proof.Machine
end

