-- ==== Sys2Proof/Laws/State.lean ====
section
/-! SUPPORT. One lemma per field per update of the state, so that no later proof unfolds a record update. -/

namespace Sys2Proof.Machine

/-! ### setPc -/

@[simp] theorem State.setPc_params (s : State) (v : CodeAddr) : (s.setPc v).params = s.params := rfl
@[simp] theorem State.setPc_pc (s : State) (v : CodeAddr) : (s.setPc v).pc = v := rfl
@[simp] theorem State.setPc_ra (s : State) (v : CodeAddr) : (s.setPc v).ra = s.ra := rfl
@[simp] theorem State.setPc_x (s : State) (v : CodeAddr) : (s.setPc v).x = s.x := rfl
@[simp] theorem State.setPc_y (s : State) (v : CodeAddr) : (s.setPc v).y = s.y := rfl
@[simp] theorem State.setPc_a (s : State) (v : CodeAddr) : (s.setPc v).a = s.a := rfl
@[simp] theorem State.setPc_c (s : State) (v : CodeAddr) : (s.setPc v).c = s.c := rfl
@[simp] theorem State.setPc_mem (s : State) (v : CodeAddr) : (s.setPc v).mem = s.mem := rfl
@[simp] theorem State.setPc_uartOut (s : State) (v : CodeAddr) : (s.setPc v).uartOut = s.uartOut := rfl
@[simp] theorem State.setPc_extIntQueue (s : State) (v : CodeAddr) : (s.setPc v).extIntQueue = s.extIntQueue := rfl
@[simp] theorem State.setPc_extIntSamples (s : State) (v : CodeAddr) : (s.setPc v).extIntSamples = s.extIntSamples := rfl
@[simp] theorem State.setPc_tickQueue (s : State) (v : CodeAddr) : (s.setPc v).tickQueue = s.tickQueue := rfl
@[simp] theorem State.setPc_tickSamples (s : State) (v : CodeAddr) : (s.setPc v).tickSamples = s.tickSamples := rfl

/-! ### setRa -/

@[simp] theorem State.setRa_params (s : State) (v : CodeAddr) : (s.setRa v).params = s.params := rfl
@[simp] theorem State.setRa_pc (s : State) (v : CodeAddr) : (s.setRa v).pc = s.pc := rfl
@[simp] theorem State.setRa_ra (s : State) (v : CodeAddr) : (s.setRa v).ra = v := rfl
@[simp] theorem State.setRa_x (s : State) (v : CodeAddr) : (s.setRa v).x = s.x := rfl
@[simp] theorem State.setRa_y (s : State) (v : CodeAddr) : (s.setRa v).y = s.y := rfl
@[simp] theorem State.setRa_a (s : State) (v : CodeAddr) : (s.setRa v).a = s.a := rfl
@[simp] theorem State.setRa_c (s : State) (v : CodeAddr) : (s.setRa v).c = s.c := rfl
@[simp] theorem State.setRa_mem (s : State) (v : CodeAddr) : (s.setRa v).mem = s.mem := rfl
@[simp] theorem State.setRa_uartOut (s : State) (v : CodeAddr) : (s.setRa v).uartOut = s.uartOut := rfl
@[simp] theorem State.setRa_extIntQueue (s : State) (v : CodeAddr) : (s.setRa v).extIntQueue = s.extIntQueue := rfl
@[simp] theorem State.setRa_extIntSamples (s : State) (v : CodeAddr) : (s.setRa v).extIntSamples = s.extIntSamples := rfl
@[simp] theorem State.setRa_tickQueue (s : State) (v : CodeAddr) : (s.setRa v).tickQueue = s.tickQueue := rfl
@[simp] theorem State.setRa_tickSamples (s : State) (v : CodeAddr) : (s.setRa v).tickSamples = s.tickSamples := rfl

/-! ### setX -/

@[simp] theorem State.setX_params (s : State) (v : Byte) : (s.setX v).params = s.params := rfl
@[simp] theorem State.setX_pc (s : State) (v : Byte) : (s.setX v).pc = s.pc := rfl
@[simp] theorem State.setX_ra (s : State) (v : Byte) : (s.setX v).ra = s.ra := rfl
@[simp] theorem State.setX_x (s : State) (v : Byte) : (s.setX v).x = v := rfl
@[simp] theorem State.setX_y (s : State) (v : Byte) : (s.setX v).y = s.y := rfl
@[simp] theorem State.setX_a (s : State) (v : Byte) : (s.setX v).a = s.a := rfl
@[simp] theorem State.setX_c (s : State) (v : Byte) : (s.setX v).c = s.c := rfl
@[simp] theorem State.setX_mem (s : State) (v : Byte) : (s.setX v).mem = s.mem := rfl
@[simp] theorem State.setX_uartOut (s : State) (v : Byte) : (s.setX v).uartOut = s.uartOut := rfl
@[simp] theorem State.setX_extIntQueue (s : State) (v : Byte) : (s.setX v).extIntQueue = s.extIntQueue := rfl
@[simp] theorem State.setX_extIntSamples (s : State) (v : Byte) : (s.setX v).extIntSamples = s.extIntSamples := rfl
@[simp] theorem State.setX_tickQueue (s : State) (v : Byte) : (s.setX v).tickQueue = s.tickQueue := rfl
@[simp] theorem State.setX_tickSamples (s : State) (v : Byte) : (s.setX v).tickSamples = s.tickSamples := rfl

/-! ### setY -/

@[simp] theorem State.setY_params (s : State) (v : Word) : (s.setY v).params = s.params := rfl
@[simp] theorem State.setY_pc (s : State) (v : Word) : (s.setY v).pc = s.pc := rfl
@[simp] theorem State.setY_ra (s : State) (v : Word) : (s.setY v).ra = s.ra := rfl
@[simp] theorem State.setY_x (s : State) (v : Word) : (s.setY v).x = s.x := rfl
@[simp] theorem State.setY_y (s : State) (v : Word) : (s.setY v).y = v := rfl
@[simp] theorem State.setY_a (s : State) (v : Word) : (s.setY v).a = s.a := rfl
@[simp] theorem State.setY_c (s : State) (v : Word) : (s.setY v).c = s.c := rfl
@[simp] theorem State.setY_mem (s : State) (v : Word) : (s.setY v).mem = s.mem := rfl
@[simp] theorem State.setY_uartOut (s : State) (v : Word) : (s.setY v).uartOut = s.uartOut := rfl
@[simp] theorem State.setY_extIntQueue (s : State) (v : Word) : (s.setY v).extIntQueue = s.extIntQueue := rfl
@[simp] theorem State.setY_extIntSamples (s : State) (v : Word) : (s.setY v).extIntSamples = s.extIntSamples := rfl
@[simp] theorem State.setY_tickQueue (s : State) (v : Word) : (s.setY v).tickQueue = s.tickQueue := rfl
@[simp] theorem State.setY_tickSamples (s : State) (v : Word) : (s.setY v).tickSamples = s.tickSamples := rfl

/-! ### setA -/

@[simp] theorem State.setA_params (s : State) (v : Byte) : (s.setA v).params = s.params := rfl
@[simp] theorem State.setA_pc (s : State) (v : Byte) : (s.setA v).pc = s.pc := rfl
@[simp] theorem State.setA_ra (s : State) (v : Byte) : (s.setA v).ra = s.ra := rfl
@[simp] theorem State.setA_x (s : State) (v : Byte) : (s.setA v).x = s.x := rfl
@[simp] theorem State.setA_y (s : State) (v : Byte) : (s.setA v).y = s.y := rfl
@[simp] theorem State.setA_a (s : State) (v : Byte) : (s.setA v).a = v := rfl
@[simp] theorem State.setA_c (s : State) (v : Byte) : (s.setA v).c = s.c := rfl
@[simp] theorem State.setA_mem (s : State) (v : Byte) : (s.setA v).mem = s.mem := rfl
@[simp] theorem State.setA_uartOut (s : State) (v : Byte) : (s.setA v).uartOut = s.uartOut := rfl
@[simp] theorem State.setA_extIntQueue (s : State) (v : Byte) : (s.setA v).extIntQueue = s.extIntQueue := rfl
@[simp] theorem State.setA_extIntSamples (s : State) (v : Byte) : (s.setA v).extIntSamples = s.extIntSamples := rfl
@[simp] theorem State.setA_tickQueue (s : State) (v : Byte) : (s.setA v).tickQueue = s.tickQueue := rfl
@[simp] theorem State.setA_tickSamples (s : State) (v : Byte) : (s.setA v).tickSamples = s.tickSamples := rfl

/-! ### setC -/

@[simp] theorem State.setC_params (s : State) (v : Bool) : (s.setC v).params = s.params := rfl
@[simp] theorem State.setC_pc (s : State) (v : Bool) : (s.setC v).pc = s.pc := rfl
@[simp] theorem State.setC_ra (s : State) (v : Bool) : (s.setC v).ra = s.ra := rfl
@[simp] theorem State.setC_x (s : State) (v : Bool) : (s.setC v).x = s.x := rfl
@[simp] theorem State.setC_y (s : State) (v : Bool) : (s.setC v).y = s.y := rfl
@[simp] theorem State.setC_a (s : State) (v : Bool) : (s.setC v).a = s.a := rfl
@[simp] theorem State.setC_c (s : State) (v : Bool) : (s.setC v).c = v := rfl
@[simp] theorem State.setC_mem (s : State) (v : Bool) : (s.setC v).mem = s.mem := rfl
@[simp] theorem State.setC_uartOut (s : State) (v : Bool) : (s.setC v).uartOut = s.uartOut := rfl
@[simp] theorem State.setC_extIntQueue (s : State) (v : Bool) : (s.setC v).extIntQueue = s.extIntQueue := rfl
@[simp] theorem State.setC_extIntSamples (s : State) (v : Bool) : (s.setC v).extIntSamples = s.extIntSamples := rfl
@[simp] theorem State.setC_tickQueue (s : State) (v : Bool) : (s.setC v).tickQueue = s.tickQueue := rfl
@[simp] theorem State.setC_tickSamples (s : State) (v : Bool) : (s.setC v).tickSamples = s.tickSamples := rfl

/-! ### memWrite -/

@[simp] theorem State.memWrite_params (s : State) (addr : Word) (v : Byte) : (s.memWrite addr v).params = s.params := rfl
@[simp] theorem State.memWrite_pc (s : State) (addr : Word) (v : Byte) : (s.memWrite addr v).pc = s.pc := rfl
@[simp] theorem State.memWrite_ra (s : State) (addr : Word) (v : Byte) : (s.memWrite addr v).ra = s.ra := rfl
@[simp] theorem State.memWrite_x (s : State) (addr : Word) (v : Byte) : (s.memWrite addr v).x = s.x := rfl
@[simp] theorem State.memWrite_y (s : State) (addr : Word) (v : Byte) : (s.memWrite addr v).y = s.y := rfl
@[simp] theorem State.memWrite_a (s : State) (addr : Word) (v : Byte) : (s.memWrite addr v).a = s.a := rfl
@[simp] theorem State.memWrite_c (s : State) (addr : Word) (v : Byte) : (s.memWrite addr v).c = s.c := rfl
@[simp] theorem State.memWrite_mem (s : State) (addr : Word) (v : Byte) : (s.memWrite addr v).mem = s.mem.write addr.toNat v := rfl
@[simp] theorem State.memWrite_uartOut (s : State) (addr : Word) (v : Byte) : (s.memWrite addr v).uartOut = s.uartOut := rfl
@[simp] theorem State.memWrite_extIntQueue (s : State) (addr : Word) (v : Byte) : (s.memWrite addr v).extIntQueue = s.extIntQueue := rfl
@[simp] theorem State.memWrite_extIntSamples (s : State) (addr : Word) (v : Byte) : (s.memWrite addr v).extIntSamples = s.extIntSamples := rfl
@[simp] theorem State.memWrite_tickQueue (s : State) (addr : Word) (v : Byte) : (s.memWrite addr v).tickQueue = s.tickQueue := rfl
@[simp] theorem State.memWrite_tickSamples (s : State) (addr : Word) (v : Byte) : (s.memWrite addr v).tickSamples = s.tickSamples := rfl

/-! ### uartTx -/

@[simp] theorem State.uartTx_params (s : State) (b : Bool) : (s.uartTx b).params = s.params := rfl
@[simp] theorem State.uartTx_pc (s : State) (b : Bool) : (s.uartTx b).pc = s.pc := rfl
@[simp] theorem State.uartTx_ra (s : State) (b : Bool) : (s.uartTx b).ra = s.ra := rfl
@[simp] theorem State.uartTx_x (s : State) (b : Bool) : (s.uartTx b).x = s.x := rfl
@[simp] theorem State.uartTx_y (s : State) (b : Bool) : (s.uartTx b).y = s.y := rfl
@[simp] theorem State.uartTx_a (s : State) (b : Bool) : (s.uartTx b).a = s.a := rfl
@[simp] theorem State.uartTx_c (s : State) (b : Bool) : (s.uartTx b).c = s.c := rfl
@[simp] theorem State.uartTx_mem (s : State) (b : Bool) : (s.uartTx b).mem = s.mem := rfl
@[simp] theorem State.uartTx_uartOut (s : State) (b : Bool) : (s.uartTx b).uartOut = s.uartOut ++ [b] := rfl
@[simp] theorem State.uartTx_extIntQueue (s : State) (b : Bool) : (s.uartTx b).extIntQueue = s.extIntQueue := rfl
@[simp] theorem State.uartTx_extIntSamples (s : State) (b : Bool) : (s.uartTx b).extIntSamples = s.extIntSamples := rfl
@[simp] theorem State.uartTx_tickQueue (s : State) (b : Bool) : (s.uartTx b).tickQueue = s.tickQueue := rfl
@[simp] theorem State.uartTx_tickSamples (s : State) (b : Bool) : (s.uartTx b).tickSamples = s.tickSamples := rfl

/-! ### extIntTaken -/

@[simp] theorem State.extIntTaken_params (s : State) : s.extIntTaken.params = s.params := rfl
@[simp] theorem State.extIntTaken_pc (s : State) : s.extIntTaken.pc = s.pc := rfl
@[simp] theorem State.extIntTaken_ra (s : State) : s.extIntTaken.ra = s.ra := rfl
@[simp] theorem State.extIntTaken_x (s : State) : s.extIntTaken.x = s.x := rfl
@[simp] theorem State.extIntTaken_y (s : State) : s.extIntTaken.y = s.y := rfl
@[simp] theorem State.extIntTaken_a (s : State) : s.extIntTaken.a = s.a := rfl
@[simp] theorem State.extIntTaken_c (s : State) : s.extIntTaken.c = s.c := rfl
@[simp] theorem State.extIntTaken_mem (s : State) : s.extIntTaken.mem = s.mem := rfl
@[simp] theorem State.extIntTaken_uartOut (s : State) : s.extIntTaken.uartOut = s.uartOut := rfl
@[simp] theorem State.extIntTaken_extIntQueue (s : State) : s.extIntTaken.extIntQueue = s.extIntQueue.tail := rfl
@[simp] theorem State.extIntTaken_extIntSamples (s : State) : s.extIntTaken.extIntSamples = s.extIntSamples + 1 := rfl
@[simp] theorem State.extIntTaken_tickQueue (s : State) : s.extIntTaken.tickQueue = s.tickQueue := rfl
@[simp] theorem State.extIntTaken_tickSamples (s : State) : s.extIntTaken.tickSamples = s.tickSamples := rfl

/-! ### clockTickTaken -/

@[simp] theorem State.clockTickTaken_params (s : State) : s.clockTickTaken.params = s.params := rfl
@[simp] theorem State.clockTickTaken_pc (s : State) : s.clockTickTaken.pc = s.pc := rfl
@[simp] theorem State.clockTickTaken_ra (s : State) : s.clockTickTaken.ra = s.ra := rfl
@[simp] theorem State.clockTickTaken_x (s : State) : s.clockTickTaken.x = s.x := rfl
@[simp] theorem State.clockTickTaken_y (s : State) : s.clockTickTaken.y = s.y := rfl
@[simp] theorem State.clockTickTaken_a (s : State) : s.clockTickTaken.a = s.a := rfl
@[simp] theorem State.clockTickTaken_c (s : State) : s.clockTickTaken.c = s.c := rfl
@[simp] theorem State.clockTickTaken_mem (s : State) : s.clockTickTaken.mem = s.mem := rfl
@[simp] theorem State.clockTickTaken_uartOut (s : State) : s.clockTickTaken.uartOut = s.uartOut := rfl
@[simp] theorem State.clockTickTaken_extIntQueue (s : State) : s.clockTickTaken.extIntQueue = s.extIntQueue := rfl
@[simp] theorem State.clockTickTaken_extIntSamples (s : State) : s.clockTickTaken.extIntSamples = s.extIntSamples := rfl
@[simp] theorem State.clockTickTaken_tickQueue (s : State) : s.clockTickTaken.tickQueue = s.tickQueue.tail := rfl
@[simp] theorem State.clockTickTaken_tickSamples (s : State) : s.clockTickTaken.tickSamples = s.tickSamples + 1 := rfl

/-! ### advance -/

@[simp] theorem State.advance_params (s : State) : s.advance.params = s.params := rfl
@[simp] theorem State.advance_pc (s : State) : s.advance.pc = s.pc + 2#12 := rfl
@[simp] theorem State.advance_ra (s : State) : s.advance.ra = s.ra := rfl
@[simp] theorem State.advance_x (s : State) : s.advance.x = s.x := rfl
@[simp] theorem State.advance_y (s : State) : s.advance.y = s.y := rfl
@[simp] theorem State.advance_a (s : State) : s.advance.a = s.a := rfl
@[simp] theorem State.advance_c (s : State) : s.advance.c = s.c := rfl
@[simp] theorem State.advance_mem (s : State) : s.advance.mem = s.mem := rfl
@[simp] theorem State.advance_uartOut (s : State) : s.advance.uartOut = s.uartOut := rfl
@[simp] theorem State.advance_extIntQueue (s : State) : s.advance.extIntQueue = s.extIntQueue := rfl
@[simp] theorem State.advance_extIntSamples (s : State) : s.advance.extIntSamples = s.extIntSamples := rfl
@[simp] theorem State.advance_tickQueue (s : State) : s.advance.tickQueue = s.tickQueue := rfl
@[simp] theorem State.advance_tickSamples (s : State) : s.advance.tickSamples = s.tickSamples := rfl

/-! ### branchIf -/

@[simp] theorem State.branchIf_params (s : State) (h : Bool) (t : BitVec 11) : (s.branchIf h t).params = s.params := rfl
@[simp] theorem State.branchIf_pc (s : State) (h : Bool) (t : BitVec 11) : (s.branchIf h t).pc = if h then branchTarget t else s.pc + 2#12 := rfl
@[simp] theorem State.branchIf_ra (s : State) (h : Bool) (t : BitVec 11) : (s.branchIf h t).ra = s.ra := rfl
@[simp] theorem State.branchIf_x (s : State) (h : Bool) (t : BitVec 11) : (s.branchIf h t).x = s.x := rfl
@[simp] theorem State.branchIf_y (s : State) (h : Bool) (t : BitVec 11) : (s.branchIf h t).y = s.y := rfl
@[simp] theorem State.branchIf_a (s : State) (h : Bool) (t : BitVec 11) : (s.branchIf h t).a = s.a := rfl
@[simp] theorem State.branchIf_c (s : State) (h : Bool) (t : BitVec 11) : (s.branchIf h t).c = s.c := rfl
@[simp] theorem State.branchIf_mem (s : State) (h : Bool) (t : BitVec 11) : (s.branchIf h t).mem = s.mem := rfl
@[simp] theorem State.branchIf_uartOut (s : State) (h : Bool) (t : BitVec 11) : (s.branchIf h t).uartOut = s.uartOut := rfl
@[simp] theorem State.branchIf_extIntQueue (s : State) (h : Bool) (t : BitVec 11) : (s.branchIf h t).extIntQueue = s.extIntQueue := rfl
@[simp] theorem State.branchIf_extIntSamples (s : State) (h : Bool) (t : BitVec 11) : (s.branchIf h t).extIntSamples = s.extIntSamples := rfl
@[simp] theorem State.branchIf_tickQueue (s : State) (h : Bool) (t : BitVec 11) : (s.branchIf h t).tickQueue = s.tickQueue := rfl
@[simp] theorem State.branchIf_tickSamples (s : State) (h : Bool) (t : BitVec 11) : (s.branchIf h t).tickSamples = s.tickSamples := rfl

/-! ### postInc -/

@[simp] theorem State.postInc_params (s : State) (i : Idx) :
    (s.postInc i).params = s.params := by cases i <;> rfl
@[simp] theorem State.postInc_pc (s : State) (i : Idx) :
    (s.postInc i).pc = s.pc := by cases i <;> rfl
@[simp] theorem State.postInc_ra (s : State) (i : Idx) :
    (s.postInc i).ra = s.ra := by cases i <;> rfl
@[simp] theorem State.postInc_x (s : State) (i : Idx) :
    (s.postInc i).x = if i = .x then s.x + 1#8 else s.x := by cases i <;> simp [State.postInc]
@[simp] theorem State.postInc_y (s : State) (i : Idx) :
    (s.postInc i).y = if i = .y then s.y + 1#16 else s.y := by cases i <;> simp [State.postInc]
@[simp] theorem State.postInc_a (s : State) (i : Idx) :
    (s.postInc i).a = s.a := by cases i <;> rfl
@[simp] theorem State.postInc_c (s : State) (i : Idx) :
    (s.postInc i).c = s.c := by cases i <;> rfl
@[simp] theorem State.postInc_mem (s : State) (i : Idx) :
    (s.postInc i).mem = s.mem := by cases i <;> rfl
@[simp] theorem State.postInc_uartOut (s : State) (i : Idx) :
    (s.postInc i).uartOut = s.uartOut := by cases i <;> rfl
@[simp] theorem State.postInc_extIntQueue (s : State) (i : Idx) :
    (s.postInc i).extIntQueue = s.extIntQueue := by cases i <;> rfl
@[simp] theorem State.postInc_extIntSamples (s : State) (i : Idx) :
    (s.postInc i).extIntSamples = s.extIntSamples := by cases i <;> rfl
@[simp] theorem State.postInc_tickQueue (s : State) (i : Idx) :
    (s.postInc i).tickQueue = s.tickQueue := by cases i <;> rfl
@[simp] theorem State.postInc_tickSamples (s : State) (i : Idx) :
    (s.postInc i).tickSamples = s.tickSamples := by cases i <;> rfl

/-! ### afterAccess -/

@[simp] theorem State.afterAccess_params (s : State) (o : MemOperand) :
    (s.afterAccess o).params = s.params := by
  cases o <;> simp [State.afterAccess]
@[simp] theorem State.afterAccess_pc (s : State) (o : MemOperand) :
    (s.afterAccess o).pc = s.pc := by
  cases o <;> simp [State.afterAccess]
@[simp] theorem State.afterAccess_ra (s : State) (o : MemOperand) :
    (s.afterAccess o).ra = s.ra := by
  cases o <;> simp [State.afterAccess]
@[simp] theorem State.afterAccess_x (s : State) (o : MemOperand) :
    (s.afterAccess o).x = if o = .idxPost .x then s.x + 1#8 else s.x := by
  cases o <;> simp [State.afterAccess]
@[simp] theorem State.afterAccess_y (s : State) (o : MemOperand) :
    (s.afterAccess o).y = if o = .idxPost .y then s.y + 1#16 else s.y := by
  cases o <;> simp [State.afterAccess]
@[simp] theorem State.afterAccess_a (s : State) (o : MemOperand) :
    (s.afterAccess o).a = s.a := by
  cases o <;> simp [State.afterAccess]
@[simp] theorem State.afterAccess_c (s : State) (o : MemOperand) :
    (s.afterAccess o).c = s.c := by
  cases o <;> simp [State.afterAccess]
@[simp] theorem State.afterAccess_mem (s : State) (o : MemOperand) :
    (s.afterAccess o).mem = s.mem := by
  cases o <;> simp [State.afterAccess]
@[simp] theorem State.afterAccess_uartOut (s : State) (o : MemOperand) :
    (s.afterAccess o).uartOut = s.uartOut := by
  cases o <;> simp [State.afterAccess]
@[simp] theorem State.afterAccess_extIntQueue (s : State) (o : MemOperand) :
    (s.afterAccess o).extIntQueue = s.extIntQueue := by
  cases o <;> simp [State.afterAccess]
@[simp] theorem State.afterAccess_extIntSamples (s : State) (o : MemOperand) :
    (s.afterAccess o).extIntSamples = s.extIntSamples := by
  cases o <;> simp [State.afterAccess]
@[simp] theorem State.afterAccess_tickQueue (s : State) (o : MemOperand) :
    (s.afterAccess o).tickQueue = s.tickQueue := by
  cases o <;> simp [State.afterAccess]
@[simp] theorem State.afterAccess_tickSamples (s : State) (o : MemOperand) :
    (s.afterAccess o).tickSamples = s.tickSamples := by
  cases o <;> simp [State.afterAccess]

/-! ### transfer -/

@[simp] theorem State.transfer_params (s : State) (k : Xfer) (v : Byte) :
    (s.transfer k v).params = s.params := by cases k <;> rfl
@[simp] theorem State.transfer_pc (s : State) (k : Xfer) (v : Byte) :
    (s.transfer k v).pc = s.pc := by cases k <;> rfl
@[simp] theorem State.transfer_ra (s : State) (k : Xfer) (v : Byte) :
    (s.transfer k v).ra = s.ra := by cases k <;> rfl
@[simp] theorem State.transfer_x (s : State) (k : Xfer) (v : Byte) :
    (s.transfer k v).x = if k = .tax then v else s.x := by cases k <;> simp [State.transfer]
@[simp] theorem State.transfer_y (s : State) (k : Xfer) (v : Byte) :
    (s.transfer k v).y = if k = .tay then tayWord v s.y else s.y := by cases k <;> simp [State.transfer]
@[simp] theorem State.transfer_a (s : State) (k : Xfer) (v : Byte) :
    (s.transfer k v).a = s.a := by cases k <;> rfl
@[simp] theorem State.transfer_c (s : State) (k : Xfer) (v : Byte) :
    (s.transfer k v).c = s.c := by cases k <;> rfl
@[simp] theorem State.transfer_mem (s : State) (k : Xfer) (v : Byte) :
    (s.transfer k v).mem = s.mem := by cases k <;> rfl
@[simp] theorem State.transfer_uartOut (s : State) (k : Xfer) (v : Byte) :
    (s.transfer k v).uartOut = s.uartOut := by cases k <;> rfl
@[simp] theorem State.transfer_extIntQueue (s : State) (k : Xfer) (v : Byte) :
    (s.transfer k v).extIntQueue = s.extIntQueue := by cases k <;> rfl
@[simp] theorem State.transfer_extIntSamples (s : State) (k : Xfer) (v : Byte) :
    (s.transfer k v).extIntSamples = s.extIntSamples := by cases k <;> rfl
@[simp] theorem State.transfer_tickQueue (s : State) (k : Xfer) (v : Byte) :
    (s.transfer k v).tickQueue = s.tickQueue := by cases k <;> rfl
@[simp] theorem State.transfer_tickSamples (s : State) (k : Xfer) (v : Byte) :
    (s.transfer k v).tickSamples = s.tickSamples := by cases k <;> rfl

/-! ### condTested -/

@[simp] theorem State.condTested_params (s : State) (k : Cond) :
    (s.condTested k).params = s.params := by cases k <;> rfl
@[simp] theorem State.condTested_pc (s : State) (k : Cond) :
    (s.condTested k).pc = s.pc := by cases k <;> rfl
@[simp] theorem State.condTested_ra (s : State) (k : Cond) :
    (s.condTested k).ra = s.ra := by cases k <;> rfl
@[simp] theorem State.condTested_x (s : State) (k : Cond) :
    (s.condTested k).x = s.x := by cases k <;> rfl
@[simp] theorem State.condTested_y (s : State) (k : Cond) :
    (s.condTested k).y = s.y := by cases k <;> rfl
@[simp] theorem State.condTested_a (s : State) (k : Cond) :
    (s.condTested k).a = s.a := by cases k <;> rfl
@[simp] theorem State.condTested_c (s : State) (k : Cond) :
    (s.condTested k).c = s.c := by cases k <;> rfl
@[simp] theorem State.condTested_mem (s : State) (k : Cond) :
    (s.condTested k).mem = s.mem := by cases k <;> rfl
@[simp] theorem State.condTested_uartOut (s : State) (k : Cond) :
    (s.condTested k).uartOut = s.uartOut := by cases k <;> rfl

end Sys2Proof.Machine
end

