-- ==== Sys2Proof/Laws/Ops.lean ====
section
/-! SUPPORT. What each shared operation does, once: addresses, targets, fetch, the operations of the
memory instructions, and the step. -/

namespace Sys2Proof.Machine

/-! ### Addresses -/

/-- An absolute address is its byte (R36). -/
@[simp] theorem eaAbs_toNat (addr8 : Byte) : (eaAbs addr8).toNat = addr8.toNat := by
  simp [eaAbs]
  omega

/-- An x address is the byte in x (R37). -/
@[simp] theorem State.eaIdx_x_toNat (s : State) : (s.eaIdx .x).toNat = s.x.toNat := by
  simp [State.eaIdx]
  omega

/-- A y address is y (R37). -/
@[simp] theorem State.eaIdx_y (s : State) : s.eaIdx .y = s.y := rfl

/-- A branch target is twice its field (R56). -/
theorem branchTarget_toNat (t : BitVec 11) : (branchTarget t).toNat = 2 * t.toNat := by
  simp only [branchTarget, BitVec.toNat_append, BitVec.toNat_ofNat]
  simp [Nat.shiftLeft_eq, Nat.mul_comm]

theorem branchTarget_eq_ofNat (t : BitVec 11) : branchTarget t = BitVec.ofNat 12 (2 * t.toNat) := by
  apply BitVec.eq_of_toNat_eq
  rw [branchTarget_toNat, BitVec.toNat_ofNat, Nat.mod_eq_of_lt (by omega)]

/-- Even is a matter of the number. -/
theorem evenAddr_iff (addr : CodeAddr) : evenAddr addr = true ↔ addr.toNat % 2 = 0 := by
  simp [evenAddr, BitVec.getLsbD, Nat.testBit_zero]

/-- A branch target is even (R56). -/
theorem branchTarget_even (t : BitVec 11) : evenAddr (branchTarget t) = true := by
  rw [evenAddr_iff, branchTarget_toNat]
  omega

/-- Two instructions on, or any even distance on, an even address stays even (R12, R78, R151). -/
theorem evenAddr_add {addr d : CodeAddr} (h : evenAddr addr = true) (hd : evenAddr d = true) :
    evenAddr (addr + d) = true := by
  rw [evenAddr_iff] at *
  rw [BitVec.toNat_add]
  omega

/-- `apc` moves by whole instructions (R78). -/
theorem evenAddr_skipWords {base : CodeAddr} (h : evenAddr base = true) (n : Byte) :
    evenAddr (skipWords base n) = true := by
  refine evenAddr_add h ?_
  rw [evenAddr_iff, BitVec.toNat_mul]
  simp

/-! ### Fetch (R33) -/

@[simp] theorem State.fetchEven_toNat (s : State) : s.fetchEven.toNat = s.pc.toNat := by
  simp [State.fetchEven]
  omega

@[simp] theorem State.fetchOdd_toNat (s : State) : s.fetchOdd.toNat = s.pc.toNat + 1 := by
  have h := s.pc.isLt
  simp [State.fetchOdd, BitVec.toNat_add]
  omega

/-- The word fetched: the bytes at `pc` and at `pc + 1` in the machine's byte order (R33). -/
theorem State.fetch_eq (s : State) :
    s.fetch = joinBytes s.params.instrByteOrder (s.mem.read s.pc.toNat) (s.mem.read (s.pc.toNat + 1)) := by
  simp [State.fetch, State.memRead]

/-- Fetch depends on `pc`, memory and the byte order alone. -/
theorem State.fetch_congr {s t : State} (hpc : t.pc = s.pc) (hmem : t.mem = s.mem)
    (hp : t.params = s.params) : t.fetch = s.fetch := by
  rw [State.fetch_eq, State.fetch_eq, hpc, hmem, hp]

@[simp] theorem State.placeWord_pc (s : State) (w : Word) : (s.placeWord w).pc = s.pc := rfl
@[simp] theorem State.placeWord_params (s : State) (w : Word) : (s.placeWord w).params = s.params := rfl

/-- A word placed is the word fetched. -/
theorem State.fetch_placeWord {s : State} (h : s.mem.wf = true) (w : Word) :
    (s.placeWord w).fetch = w := by
  have hw := State.memWrite_wf h s.fetchEven (evenByte s.params.instrByteOrder w)
  have hne : s.fetchEven ≠ s.fetchOdd := by
    intro he
    have := congrArg BitVec.toNat he
    simp at this
  have h1 : (s.placeWord w).memRead s.fetchEven = evenByte s.params.instrByteOrder w := by
    rw [State.placeWord, State.memRead_memWrite hw, if_neg hne, State.memRead_memWrite h, if_pos rfl]
  have h2 : (s.placeWord w).memRead s.fetchOdd = oddByte s.params.instrByteOrder w := by
    rw [State.placeWord, State.memRead_memWrite hw, if_pos rfl]
  calc (s.placeWord w).fetch
      = joinBytes s.params.instrByteOrder ((s.placeWord w).memRead s.fetchEven)
          ((s.placeWord w).memRead s.fetchOdd) := rfl
    _ = w := by rw [h1, h2, joinBytes_split]

/-! ### The memory map (log 26) -/

/-- The map is a parameter: what it admits depends on nothing else. -/
theorem State.readable_congr {s t : State} (hp : t.params = s.params) (addr : Word) :
    t.readable addr = s.readable addr := by
  rw [State.readable, State.readable, hp]

theorem State.writable_congr {s t : State} (hp : t.params = s.params) (addr : Word) :
    t.writable addr = s.writable addr := by
  rw [State.writable, State.writable, hp]

/-- Under the default map every address holds writable memory (R41, D18). -/
theorem memKindAt_default (addr : Word) : memKindAt memMap addr = some .readWrite := by
  have h := addr.isLt
  rw [memMap, memKindAt, if_pos ⟨BitVec.le_def.mpr (by simp), BitVec.le_def.mpr (by simp; omega)⟩]

/-- A read that goes on was admitted, and goes on as given. -/
theorem State.ifReadable_next {s t u : State} {addr : Word} :
    s.ifReadable addr t = .next u ↔ s.readable addr = true ∧ t = u := by
  unfold State.ifReadable
  split <;> simp [*]

/-- A write that goes on was admitted, and goes on as given. -/
theorem State.ifWritable_next {s t u : State} {addr : Word} :
    s.ifWritable addr t = .next u ↔ s.writable addr = true ∧ t = u := by
  unfold State.ifWritable
  split <;> simp [*]

/-! ### The step -/

/-- What a step that goes on has done: fetched where memory stands, decoded an instruction and executed it. -/
theorem step_next_cases {s t : State} (h : step s = .next t) :
    s.fetchable = true ∧ ∃ i, s.decoded = .ok i ∧ exec i s = .next t := by
  unfold step at h
  split at h
  · next hf =>
    cases hd : s.decoded with
    | ok i => exact ⟨hf, i, rfl, by simpa [execDecoded, hd] using h⟩
    | error r => simp [execDecoded, hd] at h
  · cases h

/-- No instruction faults: the machine has no exception (R180). -/
theorem exec_not_fault (i : Instr) (s : State) (f : Fault) : exec i s ≠ .fault f := nomatch f

/-! ### The operations of the memory instructions, field by field -/

/-- Everything `store` does (R100): one byte, the postincrement, the pc. -/
theorem State.store_cases (s : State) (o : MemOperand) :
    (s.store o).params = s.params ∧ (s.store o).mem = s.mem.write (s.ea o).toNat s.a ∧ (s.store o).pc = s.pc + 2#12 ∧
    (s.store o).ra = s.ra ∧ (s.store o).a = s.a ∧ (s.store o).c = s.c ∧
    (s.store o).x = (if o = .idxPost .x then s.x + 1#8 else s.x) ∧
    (s.store o).y = (if o = .idxPost .y then s.y + 1#16 else s.y) ∧
    (s.store o).uartOut = s.uartOut ∧
    (s.store o).extIntQueue = s.extIntQueue ∧ (s.store o).extIntSamples = s.extIntSamples ∧
    (s.store o).tickQueue = s.tickQueue ∧ (s.store o).tickSamples = s.tickSamples := by
  simp [State.store]

/-- Everything `skb` does (R151): the postincrement and the pc. -/
theorem State.skb_cases (s : State) (i : Bool) (bit : BitVec 3) (o : MemOperand) :
    (s.skb i bit o).pc =
      (if (s.memRead (s.ea o)).getLsbD bit.toNat = i then s.pc + 4#12 else s.pc + 2#12) ∧
    (s.skb i bit o).params = s.params ∧ (s.skb i bit o).mem = s.mem ∧
    (s.skb i bit o).ra = s.ra ∧ (s.skb i bit o).a = s.a ∧ (s.skb i bit o).c = s.c ∧
    (s.skb i bit o).x = (if o = .idxPost .x then s.x + 1#8 else s.x) ∧
    (s.skb i bit o).y = (if o = .idxPost .y then s.y + 1#16 else s.y) ∧
    (s.skb i bit o).uartOut = s.uartOut ∧
    (s.skb i bit o).extIntQueue = s.extIntQueue ∧ (s.skb i bit o).extIntSamples = s.extIntSamples ∧
    (s.skb i bit o).tickQueue = s.tickQueue ∧ (s.skb i bit o).tickSamples = s.tickSamples := by
  refine ⟨rfl, ?_⟩
  simp [State.skb]

/-- What a memory form of an accumulator operation does, for an operation that writes `a` and `c` alone
(R110): the operation on the byte read, the postincrement, the pc. -/
theorem State.accMem_cases (s : State) (op : State → Byte → State) (o : MemOperand)
    (hop : ∀ m, ∃ a c, op s m = (s.setA a).setC c) :
    (s.accMem op o).a = (op s (s.memRead (s.ea o))).a ∧
    (s.accMem op o).c = (op s (s.memRead (s.ea o))).c ∧
    (s.accMem op o).params = s.params ∧
    (s.accMem op o).pc = s.pc + 2#12 ∧ (s.accMem op o).mem = s.mem ∧ (s.accMem op o).ra = s.ra ∧
    (s.accMem op o).x = (if o = .idxPost .x then s.x + 1#8 else s.x) ∧
    (s.accMem op o).y = (if o = .idxPost .y then s.y + 1#16 else s.y) ∧
    (s.accMem op o).uartOut = s.uartOut ∧
    (s.accMem op o).extIntQueue = s.extIntQueue ∧ (s.accMem op o).extIntSamples = s.extIntSamples ∧
    (s.accMem op o).tickQueue = s.tickQueue ∧ (s.accMem op o).tickSamples = s.tickSamples := by
  obtain ⟨a, c, h⟩ := hop (s.memRead (s.ea o))
  simp [State.accMem, State.operand, h]

end Sys2Proof.Machine
end

