-- ==== Sys2Proof/Laws/PerInstr.lean ====
section
/-! SUPPORT. Statements made per instruction. Family FixedBits: the encoding of an instruction has the
fixed bits of its row of spec/opcode_table.json (`(w & mask) == match`, spec R64). -/

namespace Sys2Proof.Laws.FixedBits

/-- `mask` and `match` of the instruction's row. -/
def tableRow : Instr → Word × Word
  | .opr _ _ _ _ _ _ => (0xFE00#16, 0x0000#16)
  | .nop => (0xFFFF#16, 0x0000#16)
  | .utx => (0xFFFF#16, 0x0100#16)
  | .apc => (0xFFFF#16, 0x0080#16)
  | .ret => (0xFFFF#16, 0x0040#16)
  | .rlc => (0xFFFF#16, 0x0020#16)
  | .rrc => (0xFFFF#16, 0x0030#16)
  | .clc => (0xFFFF#16, 0x0008#16)
  | .sec => (0xFFFF#16, 0x000C#16)
  | .tax => (0xFFFF#16, 0x0002#16)
  | .tay => (0xFFFF#16, 0x0003#16)
  | .lsl => (0xFFFF#16, 0x0028#16)
  | .lsr => (0xFFFF#16, 0x0038#16)
  | .retadd => (0xFFFF#16, 0x00C0#16)
  | .uarttxr => (0xFFFF#16, 0x013C#16)
  | .storeAbs _ => (0xFF00#16, 0x1000#16)
  | .storeIdx _ => (0xFFFE#16, 0x2000#16)
  | .storeIdxPost _ => (0xFFFE#16, 0x3000#16)
  | .loadImm _ => (0xFF00#16, 0x4000#16)
  | .loadAbs _ => (0xFF00#16, 0x5000#16)
  | .loadIdx _ => (0xFFFE#16, 0x6000#16)
  | .loadIdxPost _ => (0xFFFE#16, 0x7000#16)
  | .andImm _ => (0xFF00#16, 0x4100#16)
  | .andAbs _ => (0xFF00#16, 0x5100#16)
  | .andIdx _ => (0xFFFE#16, 0x6100#16)
  | .andIdxPost _ => (0xFFFE#16, 0x7100#16)
  | .xorImm _ => (0xFF00#16, 0x4200#16)
  | .xorAbs _ => (0xFF00#16, 0x5200#16)
  | .xorIdx _ => (0xFFFE#16, 0x6200#16)
  | .xorIdxPost _ => (0xFFFE#16, 0x7200#16)
  | .adcImm _ => (0xFF00#16, 0x4300#16)
  | .adcAbs _ => (0xFF00#16, 0x5300#16)
  | .adcIdx _ => (0xFFFE#16, 0x6300#16)
  | .adcIdxPost _ => (0xFFFE#16, 0x7300#16)
  | .jump _ => (0xF800#16, 0x8000#16)
  | .call _ => (0xF800#16, 0x8800#16)
  | .skbAbs _ _ _ => (0xF000#16, 0x9000#16)
  | .skbIdx _ _ _ => (0xF0FE#16, 0xA000#16)
  | .skbIdxPost _ _ _ => (0xF0FE#16, 0xB000#16)
  | .br _ _ => (0xC000#16, 0xC000#16)
  | .brNz _ => (0xF800#16, 0xC000#16)
  | .brZ _ => (0xF800#16, 0xC800#16)
  | .brNc _ => (0xF800#16, 0xD000#16)
  | .brC _ => (0xF800#16, 0xD800#16)
  | .brNint _ => (0xF800#16, 0xE000#16)
  | .brInt _ => (0xF800#16, 0xE800#16)
  | .brNtick _ => (0xF800#16, 0xF000#16)
  | .brTick _ => (0xF800#16, 0xF800#16)

/-- The word of the instruction has the fixed bits of its row (R64). -/
abbrev Statement (i : Instr) : Prop := encode i &&& (tableRow i).1 = (tableRow i).2

/-- A row whose opcode is the high byte. -/
theorem byteRow (h v mh : Byte) : ((h ++ v : Word) &&& (mh ++ 0x00#8 : Word)) = ((h &&& mh) ++ 0x00#8 : Word) := by
  rw [and_8_8]
  simp

/-- A row whose opcode is the five high bits. -/
theorem targetRow (h : BitVec 5) (t : BitVec 11) (mh : BitVec 5) :
    ((h ++ t : Word) &&& (mh ++ 0#11 : Word)) = ((h &&& mh) ++ 0#11 : Word) := by
  rw [and_5_11]
  simp

theorem opr (u : Bool) (p : Bool) (r : Bool) (rot : Rot) (cy : CarryFn) (xfer : Xfer) : Statement (.opr u p r rot cy xfer) := by
  cases u <;> cases p <;> cases r <;> cases rot <;> cases cy <;> cases xfer <;> rfl

theorem nop : Statement .nop := rfl

theorem utx : Statement .utx := rfl

theorem apc : Statement .apc := rfl

theorem ret : Statement .ret := rfl

theorem rlc : Statement .rlc := rfl

theorem rrc : Statement .rrc := rfl

theorem clc : Statement .clc := rfl

theorem sec : Statement .sec := rfl

theorem tax : Statement .tax := rfl

theorem tay : Statement .tay := rfl

theorem lsl : Statement .lsl := rfl

theorem lsr : Statement .lsr := rfl

theorem retadd : Statement .retadd := rfl

theorem uarttxr : Statement .uarttxr := rfl

theorem storeAbs (addr8 : Byte) : Statement (.storeAbs addr8) := byteRow _ addr8 0xFF#8

theorem storeIdx (idx : Idx) : Statement (.storeIdx idx) := by
  cases idx <;> rfl

theorem storeIdxPost (idx : Idx) : Statement (.storeIdxPost idx) := by
  cases idx <;> rfl

theorem loadImm (imm8 : Byte) : Statement (.loadImm imm8) := byteRow _ imm8 0xFF#8

theorem loadAbs (addr8 : Byte) : Statement (.loadAbs addr8) := byteRow _ addr8 0xFF#8

theorem loadIdx (idx : Idx) : Statement (.loadIdx idx) := by
  cases idx <;> rfl

theorem loadIdxPost (idx : Idx) : Statement (.loadIdxPost idx) := by
  cases idx <;> rfl

theorem andImm (imm8 : Byte) : Statement (.andImm imm8) := byteRow _ imm8 0xFF#8

theorem andAbs (addr8 : Byte) : Statement (.andAbs addr8) := byteRow _ addr8 0xFF#8

theorem andIdx (idx : Idx) : Statement (.andIdx idx) := by
  cases idx <;> rfl

theorem andIdxPost (idx : Idx) : Statement (.andIdxPost idx) := by
  cases idx <;> rfl

theorem xorImm (imm8 : Byte) : Statement (.xorImm imm8) := byteRow _ imm8 0xFF#8

theorem xorAbs (addr8 : Byte) : Statement (.xorAbs addr8) := byteRow _ addr8 0xFF#8

theorem xorIdx (idx : Idx) : Statement (.xorIdx idx) := by
  cases idx <;> rfl

theorem xorIdxPost (idx : Idx) : Statement (.xorIdxPost idx) := by
  cases idx <;> rfl

theorem adcImm (imm8 : Byte) : Statement (.adcImm imm8) := byteRow _ imm8 0xFF#8

theorem adcAbs (addr8 : Byte) : Statement (.adcAbs addr8) := byteRow _ addr8 0xFF#8

theorem adcIdx (idx : Idx) : Statement (.adcIdx idx) := by
  cases idx <;> rfl

theorem adcIdxPost (idx : Idx) : Statement (.adcIdxPost idx) := by
  cases idx <;> rfl

theorem jump (addr11 : BitVec 11) : Statement (.jump addr11) := targetRow _ addr11 0b11111#5

theorem call (addr11 : BitVec 11) : Statement (.call addr11) := targetRow _ addr11 0b11111#5

theorem skbAbs (i : Bool) (bit : BitVec 3) (addr8 : Byte) : Statement (.skbAbs i bit addr8) := by
  refine (byteRow (0b1001#4 ++ BitVec.ofBool i ++ bit) addr8 0xF0#8).trans ?_
  change _ = 0x9000#16
  clear addr8
  revert i bit
  decide

theorem skbIdx (i : Bool) (bit : BitVec 3) (idx : Idx) : Statement (.skbIdx i bit idx) := by
  cases idx <;> revert i bit <;> decide

theorem skbIdxPost (i : Bool) (bit : BitVec 3) (idx : Idx) : Statement (.skbIdxPost i bit idx) := by
  cases idx <;> revert i bit <;> decide

theorem br (cond : Cond) (addr11 : BitVec 11) : Statement (.br cond addr11) := by
  cases cond <;> exact targetRow _ addr11 0b11000#5

theorem brNz (addr11 : BitVec 11) : Statement (.brNz addr11) := targetRow _ addr11 0b11111#5

theorem brZ (addr11 : BitVec 11) : Statement (.brZ addr11) := targetRow _ addr11 0b11111#5

theorem brNc (addr11 : BitVec 11) : Statement (.brNc addr11) := targetRow _ addr11 0b11111#5

theorem brC (addr11 : BitVec 11) : Statement (.brC addr11) := targetRow _ addr11 0b11111#5

theorem brNint (addr11 : BitVec 11) : Statement (.brNint addr11) := targetRow _ addr11 0b11111#5

theorem brInt (addr11 : BitVec 11) : Statement (.brInt addr11) := targetRow _ addr11 0b11111#5

theorem brNtick (addr11 : BitVec 11) : Statement (.brNtick addr11) := targetRow _ addr11 0b11111#5

theorem brTick (addr11 : BitVec 11) : Statement (.brTick addr11) := targetRow _ addr11 0b11111#5

end Sys2Proof.Laws.FixedBits
end

