-- ==== Sys2Proof/Tests/Slice0.lean ====
section
/-! SUPPORT. The model's own tests: every constructor's decoding from a word written out from the spec's
encoding (R57, R60, R65, R160); ill-formed terms; single steps with the expected results of
spec/95_test_vectors.md; and, for every statement with hypotheses, a state and operands that meet them. -/

namespace Sys2Proof.Tests

open Sys2Proof.Machine

/-! ### Well-formedness: an ill-formed term for each check -/

theorem test_named_opr_is_ill_formed :
    (Instr.opr false false false .rlc .clc .keep).wellFormed = false := by decide

theorem test_br_is_ill_formed : (Instr.br .nz 0x008#11).wellFormed = false := by decide

theorem test_unnamed_opr_is_well_formed :
    (Instr.opr true false false .rrc .sec .tax).wellFormed = true := by decide

/-! ### Decoding: one word per constructor, from the encoding rows -/

theorem test_decode_opr : decodeTableWord 16 0x013E = some (.opr true false false .rrc .sec .tax) := by decide

theorem test_decode_opr_all : decodeTableWord 16 0x01FF = some (.opr true true true .rrc .sec .tay) := by decide

theorem test_decode_nop : decodeTableWord 16 0x0000 = some .nop := by decide

theorem test_decode_utx : decodeTableWord 16 0x0100 = some .utx := by decide

theorem test_decode_apc : decodeTableWord 16 0x0080 = some .apc := by decide

theorem test_decode_ret : decodeTableWord 16 0x0040 = some .ret := by decide

theorem test_decode_rlc : decodeTableWord 16 0x0020 = some .rlc := by decide

theorem test_decode_rrc : decodeTableWord 16 0x0030 = some .rrc := by decide

theorem test_decode_clc : decodeTableWord 16 0x0008 = some .clc := by decide

theorem test_decode_sec : decodeTableWord 16 0x000C = some .sec := by decide

theorem test_decode_tax : decodeTableWord 16 0x0002 = some .tax := by decide

theorem test_decode_tay : decodeTableWord 16 0x0003 = some .tay := by decide

theorem test_decode_lsl : decodeTableWord 16 0x0028 = some .lsl := by decide

theorem test_decode_lsr : decodeTableWord 16 0x0038 = some .lsr := by decide

theorem test_decode_retadd : decodeTableWord 16 0x00C0 = some .retadd := by decide

theorem test_decode_uarttxr : decodeTableWord 16 0x013C = some .uarttxr := by decide

theorem test_decode_store_abs : decodeTableWord 16 0x10A1 = some (.storeAbs 0xA1#8) := by decide

theorem test_decode_store_idx : decodeTableWord 16 0x2001 = some (.storeIdx .y) := by decide

theorem test_decode_store_post : decodeTableWord 16 0x3000 = some (.storeIdxPost .x) := by decide

theorem test_decode_load_imm : decodeTableWord 16 0x405A = some (.loadImm 0x5A#8) := by decide

theorem test_decode_load_abs : decodeTableWord 16 0x50C3 = some (.loadAbs 0xC3#8) := by decide

theorem test_decode_load_idx : decodeTableWord 16 0x6001 = some (.loadIdx .y) := by decide

theorem test_decode_load_post : decodeTableWord 16 0x7000 = some (.loadIdxPost .x) := by decide

theorem test_decode_and_imm : decodeTableWord 16 0x415A = some (.andImm 0x5A#8) := by decide

theorem test_decode_and_abs : decodeTableWord 16 0x51C3 = some (.andAbs 0xC3#8) := by decide

theorem test_decode_and_idx : decodeTableWord 16 0x6101 = some (.andIdx .y) := by decide

theorem test_decode_and_post : decodeTableWord 16 0x7100 = some (.andIdxPost .x) := by decide

theorem test_decode_xor_imm : decodeTableWord 16 0x425A = some (.xorImm 0x5A#8) := by decide

theorem test_decode_xor_abs : decodeTableWord 16 0x52C3 = some (.xorAbs 0xC3#8) := by decide

theorem test_decode_xor_idx : decodeTableWord 16 0x6201 = some (.xorIdx .y) := by decide

theorem test_decode_xor_post : decodeTableWord 16 0x7200 = some (.xorIdxPost .x) := by decide

theorem test_decode_adc_imm : decodeTableWord 16 0x435A = some (.adcImm 0x5A#8) := by decide

theorem test_decode_adc_abs : decodeTableWord 16 0x53C3 = some (.adcAbs 0xC3#8) := by decide

theorem test_decode_adc_idx : decodeTableWord 16 0x6301 = some (.adcIdx .y) := by decide

theorem test_decode_adc_post : decodeTableWord 16 0x7300 = some (.adcIdxPost .x) := by decide

theorem test_decode_jump : decodeTableWord 16 0x87FE = some (.jump 0x7FE#11) := by decide

theorem test_decode_call : decodeTableWord 16 0x8810 = some (.call 0x010#11) := by decide

theorem test_decode_skb_abs : decodeTableWord 16 0x9D80 = some (.skbAbs true 5#3 0x80#8) := by decide

theorem test_decode_skb_idx : decodeTableWord 16 0xA701 = some (.skbIdx false 7#3 .y) := by decide

theorem test_decode_skb_post : decodeTableWord 16 0xBC00 = some (.skbIdxPost true 4#3 .x) := by decide

theorem test_decode_br_nz : decodeTableWord 16 0xC123 = some (.brNz 0x123#11) := by decide

theorem test_decode_br_z : decodeTableWord 16 0xC923 = some (.brZ 0x123#11) := by decide

theorem test_decode_br_nc : decodeTableWord 16 0xD123 = some (.brNc 0x123#11) := by decide

theorem test_decode_br_c : decodeTableWord 16 0xD923 = some (.brC 0x123#11) := by decide

theorem test_decode_br_nint : decodeTableWord 16 0xE123 = some (.brNint 0x123#11) := by decide

theorem test_decode_br_int : decodeTableWord 16 0xE923 = some (.brInt 0x123#11) := by decide

theorem test_decode_br_ntick : decodeTableWord 16 0xF123 = some (.brNtick 0x123#11) := by decide

theorem test_decode_br_tick : decodeTableWord 16 0xF923 = some (.brTick 0x123#11) := by decide

/-- `br` has no word of its own: each of its words bears the name of its condition. -/
theorem test_encode_br : encode (.br .int 0x123#11) = 0xE923#16 := by decide

/-- The words of 95_test_vectors.md, 2.10: each refused, by its class. -/
theorem test_reserved_words :
    (match decodeWord 0x0E00#16 with | .error .oprReservedField => true | _ => false) = true ∧
    (match decodeWord 0x0015#16 with | .error .oprUnlistedValue => true | _ => false) = true ∧
    (match decodeWord 0x3F01#16 with | .error .storeOpcodeBits => true | _ => false) = true ∧
    (match decodeWord 0x6C00#16 with | .error .accOpcodeBits => true | _ => false) = true ∧
    (match decodeWord 0xBF81#16 with | .error .indexUnusedBits => true | _ => false) = true := by decide

/-- 95_test_vectors.md, 2.10: under `ignore` 0xBF81 decodes as 0xBF01. -/
theorem test_ignore_policy :
    (match decodeWordWith .ignore 0xBF81#16 with
      | .ok i => i == .skbIdxPost true 7#3 .y | _ => false) = true := by decide

/-! ### Single steps: the vectors of 95_test_vectors.md, part 2 -/

/-- A state with the given registers and nothing in memory. -/
def st (pc ra x y a : Nat) (c : Bool) : State :=
  { State.reset with
    pc := BitVec.ofNat 12 pc, ra := BitVec.ofNat 12 ra, x := BitVec.ofNat 8 x
    y := BitVec.ofNat 16 y, a := BitVec.ofNat 8 a, c := c }

/-- The same with one byte of memory. -/
def poke (s : State) (addr v : Nat) : State := s.memWrite (BitVec.ofNat 16 addr) (BitVec.ofNat 8 v)

/-- The same with the next sample of both inputs settled. -/
def input (s : State) (v : Bool) : State := { s with extIntQueue := [v], tickQueue := [v] }

/-- One step on a word placed at `pc`. -/
def run1 (w : Nat) (s : State) : Host.Outcome State Fault Refusal := step (s.withFetchWord 16 w)

/-- pc, ra, x, y, a, c of a next state. -/
def regs : Host.Outcome State Fault Refusal → Option (List Nat)
  | .next t => some [t.pc.toNat, t.ra.toNat, t.x.toNat, t.y.toNat, t.a.toNat, t.c.toNat]
  | _ => none

/-- A byte of a next state. -/
def byteOf (addr : Nat) : Host.Outcome State Fault Refusal → Option Nat
  | .next t => some (t.mem.read addr).toNat
  | _ => none

/-- The output of a next state. -/
def sentOf : Host.Outcome State Fault Refusal → Option (List Bool)
  | .next t => some t.uartOut
  | _ => none

theorem test_nop :
    regs (run1 0x0000 (st 0x100 0x000 0x00 0x0000 0x12 true)) = some [0x102, 0x000, 0x00, 0x0000, 0x12, 1] := by
  decide

theorem test_clc :
    regs (run1 0x0008 (st 0x100 0x000 0x00 0x0000 0x00 true)) = some [0x102, 0x000, 0x00, 0x0000, 0x00, 0] := by
  decide

theorem test_sec :
    regs (run1 0x000C (st 0x100 0x000 0x00 0x0000 0x00 false)) = some [0x102, 0x000, 0x00, 0x0000, 0x00, 1] := by
  decide

theorem test_rlc_carry_in :
    regs (run1 0x0020 (st 0x100 0x000 0x00 0x0000 0x81 true)) = some [0x102, 0x000, 0x00, 0x0000, 0x03, 1] := by
  decide

theorem test_rlc_carry_out :
    regs (run1 0x0020 (st 0x100 0x000 0x00 0x0000 0x80 false)) = some [0x102, 0x000, 0x00, 0x0000, 0x00, 1] := by
  decide

theorem test_rrc :
    regs (run1 0x0030 (st 0x100 0x000 0x00 0x0000 0x81 false)) = some [0x102, 0x000, 0x00, 0x0000, 0x40, 1] := by
  decide

theorem test_rrc_carry_in :
    regs (run1 0x0030 (st 0x100 0x000 0x00 0x0000 0x00 true)) = some [0x102, 0x000, 0x00, 0x0000, 0x80, 0] := by
  decide

theorem test_lsl :
    regs (run1 0x0028 (st 0x100 0x000 0x00 0x0000 0xC3 true)) = some [0x102, 0x000, 0x00, 0x0000, 0x86, 1] := by
  decide

theorem test_lsr :
    regs (run1 0x0038 (st 0x100 0x000 0x00 0x0000 0xC3 true)) = some [0x102, 0x000, 0x00, 0x0000, 0x61, 1] := by
  decide

theorem test_opr_sec_rlc :
    regs (run1 0x002C (st 0x100 0x000 0x00 0x0000 0x40 false)) = some [0x102, 0x000, 0x00, 0x0000, 0x81, 0] := by
  decide

theorem test_tax :
    regs (run1 0x0002 (st 0x100 0x000 0x00 0x0000 0x40 false)) = some [0x102, 0x000, 0x40, 0x0000, 0x40, 0] := by
  decide

theorem test_tay_of_the_source :
    regs (run1 0x0003 (st 0x100 0x000 0x00 0x1234 0x78 false)) = some [0x102, 0x000, 0x00, 0x7812, 0x78, 0] := by
  decide

theorem test_ret :
    regs (run1 0x0040 (st 0x02C 0x006 0x00 0x0000 0x00 false)) = some [0x006, 0x006, 0x00, 0x0000, 0x00, 0] := by
  decide

theorem test_apc :
    regs (run1 0x0080 (st 0x100 0x000 0x00 0x0000 0x03 false)) = some [0x108, 0x000, 0x00, 0x0000, 0x03, 0] := by
  decide

theorem test_apc_wraps :
    regs (run1 0x0080 (st 0xFFE 0x000 0x00 0x0000 0xFF false)) = some [0x1FE, 0x000, 0x00, 0x0000, 0xFF, 0] := by
  decide

theorem test_retadd :
    regs (run1 0x00C0 (st 0x026 0x006 0x00 0x0000 0x01 false)) = some [0x008, 0x006, 0x00, 0x0000, 0x01, 0] := by
  decide

theorem test_retadd_wraps :
    regs (run1 0x00C0 (st 0x02C 0xFFE 0x00 0x0000 0x02 false)) = some [0x002, 0xFFE, 0x00, 0x0000, 0x02, 0] := by
  decide

theorem test_utx :
    regs (run1 0x0100 (st 0x100 0x000 0x00 0x0000 0x41 false)) = some [0x102, 0x000, 0x00, 0x0000, 0x41, 0] ∧
    sentOf (run1 0x0100 (st 0x100 0x000 0x00 0x0000 0x41 false)) = some [true] := by
  decide

theorem test_uarttxr :
    regs (run1 0x013C (st 0x100 0x000 0x00 0x0000 0x41 false)) = some [0x102, 0x000, 0x00, 0x0000, 0xA0, 1] ∧
    sentOf (run1 0x013C (st 0x100 0x000 0x00 0x0000 0x41 false)) = some [true] := by
  decide

theorem test_uarttxr_start_bit :
    regs (run1 0x013C (st 0x100 0x000 0x00 0x0000 0x00 false)) = some [0x102, 0x000, 0x00, 0x0000, 0x80, 0] ∧
    sentOf (run1 0x013C (st 0x100 0x000 0x00 0x0000 0x00 false)) = some [false] := by
  decide

theorem test_opr_everything :
    regs (run1 0x01FF (st 0x100 0x010 0x00 0x1234 0x03 false)) = some [0x016, 0x010, 0x00, 0x0312, 0x81, 1] ∧
    sentOf (run1 0x01FF (st 0x100 0x010 0x00 0x1234 0x03 false)) = some [true] := by
  decide

theorem test_store_abs :
    regs (run1 0x10A1 (st 0x100 0x000 0x00 0x0000 0x47 false)) = some [0x102, 0x000, 0x00, 0x0000, 0x47, 0] ∧
    byteOf 0x00A1 (run1 0x10A1 (st 0x100 0x000 0x00 0x0000 0x47 false)) = some 0x47 := by
  decide

theorem test_store_idx_y :
    regs (run1 0x2001 (st 0x100 0x000 0x00 0x1234 0x99 false)) = some [0x102, 0x000, 0x00, 0x1234, 0x99, 0] ∧
    byteOf 0x1234 (run1 0x2001 (st 0x100 0x000 0x00 0x1234 0x99 false)) = some 0x99 := by
  decide

theorem test_store_idx_x :
    regs (run1 0x2000 (st 0x100 0x000 0x7F 0x0000 0x11 false)) = some [0x102, 0x000, 0x7F, 0x0000, 0x11, 0] ∧
    byteOf 0x007F (run1 0x2000 (st 0x100 0x000 0x7F 0x0000 0x11 false)) = some 0x11 := by
  decide

theorem test_store_post_x_wraps :
    regs (run1 0x3000 (st 0x100 0x000 0xFF 0x0000 0x01 false)) = some [0x102, 0x000, 0x00, 0x0000, 0x01, 0] ∧
    byteOf 0x00FF (run1 0x3000 (st 0x100 0x000 0xFF 0x0000 0x01 false)) = some 0x01 := by
  decide

theorem test_store_post_y_wraps :
    regs (run1 0x3001 (st 0x100 0x000 0x00 0xFFFF 0x02 false)) = some [0x102, 0x000, 0x00, 0x0000, 0x02, 0] ∧
    byteOf 0xFFFF (run1 0x3001 (st 0x100 0x000 0x00 0xFFFF 0x02 false)) = some 0x02 := by
  decide

theorem test_load_imm :
    regs (run1 0x4041 (st 0x100 0x000 0x00 0x0000 0x00 false)) = some [0x102, 0x000, 0x00, 0x0000, 0x41, 0] := by
  decide

theorem test_load_abs :
    regs (run1 0x5080 (poke (st 0x100 0x000 0x00 0x0000 0x00 false) 0x0080 0xFF)) = some [0x102, 0x000, 0x00, 0x0000, 0xFF, 0] := by
  decide

theorem test_load_idx :
    regs (run1 0x6001 (poke (st 0x100 0x000 0x00 0x1000 0x00 false) 0x1000 0xDE)) = some [0x102, 0x000, 0x00, 0x1000, 0xDE, 0] := by
  decide

theorem test_load_post_x_wraps :
    regs (run1 0x7000 (poke (st 0x100 0x000 0xFF 0x0000 0x00 false) 0x00FF 0x77)) = some [0x102, 0x000, 0x00, 0x0000, 0x77, 0] := by
  decide

theorem test_load_post_y_wraps :
    regs (run1 0x7001 (poke (st 0x100 0x000 0x00 0xFFFF 0x00 false) 0xFFFF 0x5A)) = some [0x102, 0x000, 0x00, 0x0000, 0x5A, 0] := by
  decide

theorem test_and_imm :
    regs (run1 0x410F (st 0x100 0x000 0x00 0x0000 0xB5 true)) = some [0x102, 0x000, 0x00, 0x0000, 0x05, 1] := by
  decide

theorem test_and_abs :
    regs (run1 0x5120 (poke (st 0x100 0x000 0x00 0x0000 0xF0 false) 0x0020 0x3C)) = some [0x102, 0x000, 0x00, 0x0000, 0x30, 0] := by
  decide

theorem test_and_idx :
    regs (run1 0x6100 (poke (st 0x100 0x000 0x20 0x0000 0xFF false) 0x0020 0x3C)) = some [0x102, 0x000, 0x20, 0x0000, 0x3C, 0] := by
  decide

theorem test_and_post :
    regs (run1 0x7101 (poke (st 0x100 0x000 0x00 0x2000 0x0F false) 0x2000 0xA5)) = some [0x102, 0x000, 0x00, 0x2001, 0x05, 0] := by
  decide

theorem test_xor_imm :
    regs (run1 0x42FF (st 0x100 0x000 0x00 0x0000 0x5A false)) = some [0x102, 0x000, 0x00, 0x0000, 0xA5, 0] := by
  decide

theorem test_xor_abs :
    regs (run1 0x5220 (poke (st 0x100 0x000 0x00 0x0000 0xF0 false) 0x0020 0x3C)) = some [0x102, 0x000, 0x00, 0x0000, 0xCC, 0] := by
  decide

theorem test_xor_idx :
    regs (run1 0x6201 (poke (st 0x100 0x000 0x00 0x1234 0xFF false) 0x1234 0x0F)) = some [0x102, 0x000, 0x00, 0x1234, 0xF0, 0] := by
  decide

theorem test_xor_post :
    regs (run1 0x7200 (poke (st 0x100 0x000 0xFF 0x0000 0xAA false) 0x00FF 0xAA)) = some [0x102, 0x000, 0x00, 0x0000, 0x00, 0] := by
  decide

theorem test_adc_imm_largest :
    regs (run1 0x43FF (st 0x100 0x000 0x00 0x0000 0xFF true)) = some [0x102, 0x000, 0x00, 0x0000, 0xFF, 1] := by
  decide

theorem test_adc_imm_no_overflow_flag :
    regs (run1 0x4301 (st 0x100 0x000 0x00 0x0000 0x7F false)) = some [0x102, 0x000, 0x00, 0x0000, 0x80, 0] := by
  decide

theorem test_adc_abs :
    regs (run1 0x5390 (poke (st 0x100 0x000 0x00 0x0000 0xFF false) 0x0090 0x01)) = some [0x102, 0x000, 0x00, 0x0000, 0x00, 1] := by
  decide

theorem test_adc_idx :
    regs (run1 0x6300 (poke (st 0x100 0x000 0x91 0x0000 0x12 true) 0x0091 0x34)) = some [0x102, 0x000, 0x91, 0x0000, 0x47, 0] := by
  decide

theorem test_adc_post :
    regs (run1 0x7301 (poke (st 0x100 0x000 0x00 0xFFFF 0x80 true) 0xFFFF 0x80)) = some [0x102, 0x000, 0x00, 0x0000, 0x01, 1] := by
  decide

theorem test_jump :
    regs (run1 0x8015 (st 0x022 0x000 0x00 0x0000 0x00 false)) = some [0x02A, 0x000, 0x00, 0x0000, 0x00, 0] := by
  decide

theorem test_jump_highest :
    regs (run1 0x87FF (st 0x000 0x000 0x00 0x0000 0x00 false)) = some [0xFFE, 0x000, 0x00, 0x0000, 0x00, 0] := by
  decide

theorem test_call :
    regs (run1 0x8810 (st 0x004 0x122 0x00 0x0000 0x00 false)) = some [0x020, 0x006, 0x00, 0x0000, 0x00, 0] := by
  decide

theorem test_call_wraps :
    regs (run1 0x8800 (st 0xFFE 0x000 0x00 0x0000 0x00 false)) = some [0x000, 0x000, 0x00, 0x0000, 0x00, 0] := by
  decide

theorem test_skb_abs_skips :
    regs (run1 0x9880 (poke (st 0x020 0x000 0x00 0x0000 0x00 false) 0x0080 0x05)) = some [0x024, 0x000, 0x00, 0x0000, 0x00, 0] := by
  decide

theorem test_skb_abs_stays :
    regs (run1 0x9880 (poke (st 0x020 0x000 0x00 0x0000 0x00 false) 0x0080 0x04)) = some [0x022, 0x000, 0x00, 0x0000, 0x00, 0] := by
  decide

theorem test_skb_idx_stays :
    regs (run1 0xA701 (poke (st 0x040 0x000 0x00 0x1000 0x00 false) 0x1000 0x80)) = some [0x042, 0x000, 0x00, 0x1000, 0x00, 0] := by
  decide

theorem test_skb_idx_skips :
    regs (run1 0xA000 (poke (st 0x040 0x000 0x30 0x0000 0x00 false) 0x0030 0xFE)) = some [0x044, 0x000, 0x30, 0x0000, 0x00, 0] := by
  decide

theorem test_skb_post_stays_and_increments :
    regs (run1 0xBC00 (st 0x100 0x000 0xFF 0x0000 0x00 false)) = some [0x102, 0x000, 0x00, 0x0000, 0x00, 0] := by
  decide

theorem test_skb_post_wraps :
    regs (run1 0xB901 (poke (st 0xFFC 0x000 0x00 0x2000 0x00 false) 0x2000 0x02)) = some [0x000, 0x000, 0x00, 0x2001, 0x00, 0] := by
  decide

theorem test_br_nz_taken :
    regs (run1 0xC008 (st 0x01C 0x000 0x00 0x0000 0x03 false)) = some [0x010, 0x000, 0x00, 0x0000, 0x03, 0] := by
  decide

theorem test_br_nz_at_the_top :
    regs (run1 0xC000 (st 0xFFE 0x000 0x00 0x0000 0x00 false)) = some [0x000, 0x000, 0x00, 0x0000, 0x00, 0] := by
  decide

theorem test_br_z_taken :
    regs (run1 0xC820 (st 0x010 0x000 0x00 0x0000 0x00 false)) = some [0x040, 0x000, 0x00, 0x0000, 0x00, 0] := by
  decide

theorem test_br_z_not_taken :
    regs (run1 0xC820 (st 0x010 0x000 0x00 0x0000 0x80 false)) = some [0x012, 0x000, 0x00, 0x0000, 0x80, 0] := by
  decide

theorem test_br_nc_taken :
    regs (run1 0xD004 (st 0x100 0x000 0x00 0x0000 0x00 false)) = some [0x008, 0x000, 0x00, 0x0000, 0x00, 0] := by
  decide

theorem test_br_nc_not_taken :
    regs (run1 0xD004 (st 0x100 0x000 0x00 0x0000 0x00 true)) = some [0x102, 0x000, 0x00, 0x0000, 0x00, 1] := by
  decide

theorem test_br_c_taken :
    regs (run1 0xD804 (st 0x100 0x000 0x00 0x0000 0x00 true)) = some [0x008, 0x000, 0x00, 0x0000, 0x00, 1] := by
  decide

theorem test_br_c_not_taken :
    regs (run1 0xD804 (st 0x100 0x000 0x00 0x0000 0x00 false)) = some [0x102, 0x000, 0x00, 0x0000, 0x00, 0] := by
  decide

theorem test_br_nint_taken :
    regs (run1 0xE000 (input (st 0x200 0x000 0x00 0x0000 0x00 false) false)) = some [0x000, 0x000, 0x00, 0x0000, 0x00, 0] := by
  decide

theorem test_br_nint_not_taken :
    regs (run1 0xE000 (input (st 0x200 0x000 0x00 0x0000 0x00 false) true)) = some [0x202, 0x000, 0x00, 0x0000, 0x00, 0] := by
  decide

theorem test_br_int_taken :
    regs (run1 0xE900 (input (st 0x020 0x000 0x00 0x0000 0x00 false) true)) = some [0x200, 0x000, 0x00, 0x0000, 0x00, 0] := by
  decide

theorem test_br_int_not_taken :
    regs (run1 0xE900 (input (st 0x020 0x000 0x00 0x0000 0x00 false) false)) = some [0x022, 0x000, 0x00, 0x0000, 0x00, 0] := by
  decide

theorem test_br_ntick_taken :
    regs (run1 0xF010 (input (st 0x020 0x000 0x00 0x0000 0x00 false) false)) = some [0x020, 0x000, 0x00, 0x0000, 0x00, 0] := by
  decide

theorem test_br_ntick_not_taken :
    regs (run1 0xF010 (input (st 0x020 0x000 0x00 0x0000 0x00 false) true)) = some [0x022, 0x000, 0x00, 0x0000, 0x00, 0] := by
  decide

theorem test_br_tick_taken :
    regs (run1 0xFFFF (input (st 0x000 0x000 0x00 0x0000 0x00 false) true)) = some [0xFFE, 0x000, 0x00, 0x0000, 0x00, 0] := by
  decide

theorem test_br_tick_not_taken :
    regs (run1 0xF900 (input (st 0x020 0x000 0x00 0x0000 0x00 false) false)) = some [0x022, 0x000, 0x00, 0x0000, 0x00, 0] := by
  decide

/-- The core form of `br`, which no word is named by: 95_test_vectors.md, 2.9, first row. -/
theorem test_br_core :
    regs (exec (.br .nz 0x008#11) (st 0x01C 0x000 0x00 0x0000 0x03 false)) =
      some [0x010, 0x000, 0x00, 0x0000, 0x03, 0] := by
  decide

/-- A reserved word stops the step, by name (R181). -/
theorem test_reserved_step :
    run1 0x1180 State.reset = .refused (.reservedEncoding .storeOpcodeBits 0x1180#16) := rfl

/-- 95_test_vectors.md, 2.11: a store into the word at 0x006 is what is fetched there next. -/
theorem test_store_into_code :
    byteOf 0x0006 (run1 0x1006 (st 0x002 0x000 0x00 0x0000 0x0C false)) = some 0x0C := by
  decide

/-! ### The open parameters at values other than their defaults (R5) -/

/-- The same under `INSTR_BYTE_ORDER = big`. -/
def bigEndian (s : State) : State := { s with params := { s.params with instrByteOrder := .big } }

/-- R33: with `big` the byte at the even address is the opcode byte: 0x40, 0x41 is `load #0x41`. -/
theorem test_big_endian_fetch :
    regs (step (poke (poke (bigEndian (st 0x100 0x000 0x00 0x0000 0x00 false)) 0x100 0x40) 0x101 0x41)) =
      some [0x102, 0x000, 0x00, 0x0000, 0x41, 0] := by
  decide

/-- R73: with `OPR_A_SOURCE = rotated`, `rlc tax` (0x0022) on 0x81 leaves 0x02 in x; with `start`, 0x81. -/
theorem test_opr_a_source :
    regs (run1 0x0022 { st 0x100 0x000 0x00 0x0000 0x81 false with
      params := { Params.default with oprASource := .rotated } }) =
        some [0x102, 0x000, 0x02, 0x0000, 0x02, 1] ∧
    regs (run1 0x0022 (st 0x100 0x000 0x00 0x0000 0x81 false)) =
      some [0x102, 0x000, 0x81, 0x0000, 0x02, 1] := by
  decide

/-- R62 V5: with `UNUSED_BITS_POLICY = ignore`, 0x6080 steps as 0x6000, `load (x)`. -/
theorem test_ignore_policy_step :
    regs (run1 0x6080 { poke (st 0x100 0x000 0x40 0x0000 0x00 false) 0x40 0x77 with
      params := { Params.default with unusedBitsPolicy := .ignore } }) =
        some [0x102, 0x000, 0x40, 0x0000, 0x77, 0] := by
  decide

/-- R5, R25: `RESET_PC` is where a reset leaves pc. -/
theorem test_reset_pc :
    (State.powerOn { Params.default with resetPc := 0x800#12 } 0 0 0 0 false []).pc = 0x800#12 := rfl

/-- A state with y given and a map of writable memory, read-only memory and nothing else. -/
def mapped (y : Nat) : State :=
  { st 0x100 0x000 0x00 y 0x99 false with
    params := { Params.default with memMap :=
      [⟨0x0000#16, 0x07FF#16, .readWrite⟩, ⟨0x1000#16, 0x1FFF#16, .readOnly⟩] } }

/-- R32: read-only memory is read and not written, and where nothing stands neither. -/
theorem test_memory_map :
    regs (run1 0x6001 (mapped 0x1000)) = some [0x102, 0x000, 0x00, 0x1000, 0x00, 0] ∧
    run1 0x2001 (mapped 0x1000) = .refused (.outsideMemMap .write 0x1000#16) ∧
    run1 0x6001 (mapped 0x2000) = .refused (.outsideMemMap .read 0x2000#16) :=
  ⟨by decide, rfl, rfl⟩

/-- R38, R32: a write of the value an unlisted address reads as removes the entry. -/
theorem test_write_keeps_canonical_form :
    Memory.write [(3, 0x11#8), (5, 0x22#8)] 3 0x00#8 = [(5, 0x22#8)] := by decide

theorem test_unsorted_memory_is_not_canonical : Memory.wf [(5, 0x22#8), (3, 0x11#8)] = false := by decide

/-! ### Witnesses: the hypotheses of each statement can be met -/

/-- A state that holds 0x4041 (`load #0x41`) at 0x100. -/
def atLoad : State := (st 0x100 0x006 0x10 0x1234 0x47 true).withFetchWord 16 0x4041

/-- The same under `INSTR_BYTE_ORDER = big`. -/
def atLoadBig : State := (bigEndian (st 0x100 0x006 0x10 0x1234 0x47 true)).withFetchWord 16 0x4041

/-- A state that holds the reserved word 0x1180 at 0x100. -/
def atReserved : State := (st 0x100 0x006 0x10 0x1234 0x47 true).withFetchWord 16 0x1180

/-- A state that holds a `jump` to itself at 0x00E. -/
def atSelf : State := (st 0x00E 0x006 0x10 0x1234 0x47 true).withFetchWord 16 0x8007

/-- DecodeOfEncodeIsTheInstruction. -/
theorem witness_well_formed : (Instr.skbIdxPost true 7#3 .y).wellFormed = true := by decide

/-- EncodeOfDecodeIsTheWord. -/
theorem witness_decodes : decodeWord 0xFFFF#16 = .ok (.brTick 0x7FF#11) := rfl

/-- StepRunsTheDecodedInstruction, PlacedInstructionRunsNext: the word laid out little-endian. -/
theorem witness_bytes_decode :
    atLoad.fetchable = true ∧ atLoad.params.instrByteOrder = .little ∧
    decodeWordWith atLoad.params.unusedBitsPolicy
        (atLoad.mem.read (atLoad.pc.toNat + 1) ++ atLoad.mem.read atLoad.pc.toNat) =
      .ok (.loadImm 0x41#8) := ⟨rfl, rfl, rfl⟩

/-- StepRunsTheDecodedInstruction, PlacedInstructionRunsNext: the word laid out big-endian. -/
theorem witness_bytes_decode_big :
    atLoadBig.fetchable = true ∧ atLoadBig.params.instrByteOrder = .big ∧
    decodeWordWith atLoadBig.params.unusedBitsPolicy
        (atLoadBig.mem.read atLoadBig.pc.toNat ++ atLoadBig.mem.read (atLoadBig.pc.toNat + 1)) =
      .ok (.loadImm 0x41#8) := ⟨rfl, rfl, rfl⟩

/-- ReservedWordIsRefused. -/
theorem witness_reserved :
    atReserved.fetchable = true ∧
    decodeWordWith atReserved.params.unusedBitsPolicy atReserved.fetch = .error .storeOpcodeBits := ⟨rfl, rfl⟩

/-- OnlyReservedWordsStopTheMachine: the default map, and a word that decodes. -/
theorem witness_fetch_decodes :
    atLoad.params.memMap = memMap ∧
    decodeWordWith atLoad.params.unusedBitsPolicy atLoad.fetch = .ok (.loadImm 0x41#8) := ⟨rfl, rfl⟩

/-- MemoryMapDecidesTheAccess: an access of each kind that the map does not admit. -/
theorem witness_map_refuses :
    readAddress (.loadIdx .y) (mapped 0x2000) = some 0x2000#16 ∧ (mapped 0x2000).readable 0x2000#16 = false ∧
    storeAddress (.storeIdx .y) (mapped 0x1000) = some 0x1000#16 ∧
    (mapped 0x1000).writable 0x1000#16 = false := ⟨rfl, rfl, rfl, rfl⟩

/-- MemoryMapSaysWhatStandsAtAnAddress: a fetch where nothing stands, in its first byte and in its second. -/
theorem witness_map_refuses_fetch :
    ({ mapped 0 with pc := 0x800#12 } : State).readable (0x800#12 |>.setWidth 16) = false ∧
    ({ mapped 0 with pc := 0x7FF#12 } : State).readable ((0x7FF#12 |>.setWidth 16) + 1#16) = false := ⟨rfl, rfl⟩

/-- StoreForms, LoadForms, AndForms, XorForms, AdcForms, SkbForms: at the ends of each region. -/
theorem witness_map_admits :
    (mapped 0).writable 0x0000#16 = true ∧ (mapped 0).writable 0x07FF#16 = true ∧
    (mapped 0).readable 0x1000#16 = true ∧ (mapped 0).readable 0x1FFF#16 = true ∧
    atLoad.writable 0xFFFF#16 = true ∧ atLoad.readable 0xFFFF#16 = true := ⟨rfl, rfl, rfl, rfl, rfl, rfl⟩

/-- PlacedInstructionRunsNext, StoreForms. -/
theorem witness_memory_canonical : atLoad.mem.wf = true := by decide

/-- PlacedInstructionRunsNext: an address outside the word placed. -/
theorem witness_outside_the_word : (0x102 : Nat) ≠ atLoad.pc.toNat ∧ 0x102 ≠ atLoad.pc.toNat + 1 := by decide

/-- StoreIsSeenByTheNextFetch, with the store into the low byte of the next instruction. -/
theorem witness_store_into_next :
    (st 0x004 0 0 0 0x0C false).mem.wf = true ∧
    storeAddress (.storeAbs 0x06#8) (st 0x004 0 0 0 0x0C false) = some 0x0006#16 ∧
    ∃ t, exec (.storeAbs 0x06#8) (st 0x004 0 0 0 0x0C false) = .next t ∧ t.pc = 0x006#12 :=
  ⟨by decide, rfl, _, rfl, rfl⟩

/-- StoreIsSeenByTheNextFetch, with the store into the high byte of the next instruction. -/
theorem witness_store_into_next_high :
    storeAddress (.storeIdxPost .y) (st 0x004 0 0 0x0007 0x0C false) = some 0x0007#16 ∧
    ∃ t, exec (.storeIdxPost .y) (st 0x004 0 0 0x0007 0x0C false) = .next t ∧ t.pc = 0x006#12 :=
  ⟨rfl, _, rfl, rfl⟩

/-- SelfJumpChangesNothing. -/
theorem witness_self_jump : atSelf.AtSelfJump := ⟨rfl, rfl, rfl⟩

/-- CanonicalMemoryIsItsBytes: two memories written in different orders. -/
theorem witness_same_bytes :
    (Memory.write (Memory.write [] 0xFFFF 1#8) 0 2#8).wf = true ∧
    (Memory.write (Memory.write [] 0 2#8) 0xFFFF 1#8).wf = true ∧
    Memory.write (Memory.write [] 0xFFFF 1#8) 0 2#8 = Memory.write (Memory.write [] 0 2#8) 0xFFFF 1#8 := by
  decide

/-- ResetMeetsTheInvariant: a draw of `ra`, a reset vector and an image. -/
theorem witness_reset_draw : evenAddr 0xFFE#12 = true ∧ evenAddr Params.default.resetPc = true ∧ Memory.wf [(0, 0x41#8), (0xFFFF, 0x40#8)] = true := by
  decide

/-- StepKeepsTheInvariant, UartHistoryGrowsAndIsNeverRead. -/
theorem witness_invariant_and_step : atLoad.Inv ∧ ∃ t, step atLoad = .next t := ⟨by decide, _, rfl⟩

/-- OnlyStoreWritesMemory, both cases; StoreFrame, at the highest address. -/
theorem witness_store_and_not :
    storeAddress (.storeIdx .y) (st 0 0 0 0xFFFF 0x0C false) = some 0xFFFF#16 ∧
    (∃ t, exec (.storeIdx .y) (st 0 0 0 0xFFFF 0x0C false) = .next t) ∧
    storeAddress (.loadAbs 0x06#8) atLoad = none ∧ ∃ t, exec (.loadAbs 0x06#8) atLoad = .next t :=
  ⟨rfl, ⟨_, rfl⟩, rfl, _, rfl⟩

/-- RegisterWriteSets, InputsAreSampledByBrAlone: `nop` meets every premise but the last. -/
theorem witness_writes_nothing :
    Instr.nop.transfersControl = false ∧ Instr.nop.writesRa = false ∧ Instr.nop.writesX = false ∧
    Instr.nop.writesY = false ∧ Instr.nop.writesA = false ∧ Instr.nop.writesC = false ∧
    Instr.nop.sendsBit = false ∧ Instr.nop.samplesExtInt = false ∧ Instr.nop.samplesTick = false ∧
    ∃ t, exec .nop atLoad = .next t := ⟨rfl, rfl, rfl, rfl, rfl, rfl, rfl, rfl, rfl, _, rfl⟩

/-- RegisterWriteSets: the clause of the sent bit. -/
theorem witness_sends :
    Instr.uarttxr.sendsBit = true ∧ ∃ t, exec .uarttxr atLoad = .next t := ⟨rfl, _, rfl⟩

/-- RegisterWriteSets: each premise is false of some instruction. -/
theorem witness_write_sets_are_proper :
    (Instr.retadd).transfersControl = true ∧ (Instr.call 0#11).writesRa = true ∧
    (Instr.loadIdxPost .x).writesX = true ∧ (Instr.skbIdxPost true 0#3 .y).writesY = true ∧
    (Instr.adcImm 0#8).writesA = true ∧ (Instr.adcImm 0#8).writesC = true := by decide

/-- InputsAreSampledByBrAlone: the sampling instructions. -/
theorem witness_samples :
    (Instr.brNint 0#11).samplesExtInt = true ∧ (Instr.brTick 0#11).samplesTick = true ∧
    ∃ t, exec (.brNint 0#11) atLoad = .next t := ⟨rfl, rfl, _, rfl⟩

/-- ReturnAddressIsReadByRetAlone: an instruction that writes `ra` and one that does not. -/
theorem witness_does_not_read_ra :
    (Instr.call 0#11).readsRa = false ∧ (Instr.loadImm 0#8).readsRa = false ∧
    (∃ t, exec (.call 0#11) atLoad = .next t) ∧ ∃ t, exec (.loadImm 0#8) atLoad = .next t :=
  ⟨rfl, rfl, ⟨_, rfl⟩, _, rfl⟩

/-- TayShiftsTheAccumulatorIntoY: the first of two `tay`. -/
theorem witness_first_tay : ∃ t, exec .tay { atLoad with a := 0x00#8 } = .next t := ⟨_, rfl⟩

/-- AdcChainsAcrossBytes: both additions complete. -/
theorem witness_adc_chain :
    ∃ t u, exec (.adcImm 0x01#8) { atLoad with a := 0xFF#8 } = .next t ∧
      exec (.adcImm 0x34#8) { t with a := 0x12#8 } = .next u := ⟨_, _, rfl, rfl⟩

/-- BranchTargetsAreTheEvenCodeAddresses: the two ends of the range. -/
theorem witness_even_ends : evenAddr 0x000#12 = true ∧ evenAddr 0xFFE#12 = true := by decide

/-- BrGoesToTheTargetIfTheConditionHolds and EitherOutcomeOfASampledBrIsPossible. -/
theorem witness_conditions :
    Cond.c ∈ [Cond.nz, Cond.z, Cond.nc, Cond.c] ∧ Cond.tick ∈ [Cond.nint, Cond.int, Cond.ntick, Cond.tick] := by
  decide

end Sys2Proof.Tests
end

section
/-! PROOFS. The scope of the machine: the open parameters (spec R5), the reset state (R25, R200) and the memory
map (R30, R32, R41; log 26). What an instruction may do to the map and to the parameters is said once, by
`exec_access`: it makes at most one access, completes if the map admits it, and keeps the parameters. -/

namespace Sys2Proof.Machine

/-! ### The operations keep the parameters -/

@[simp] theorem State.loadByte_params (s : State) (m : Byte) : (s.loadByte m).params = s.params := rfl
@[simp] theorem State.andByte_params (s : State) (m : Byte) : (s.andByte m).params = s.params := rfl
@[simp] theorem State.xorByte_params (s : State) (m : Byte) : (s.xorByte m).params = s.params := rfl
@[simp] theorem State.adcWith_params (s : State) (m : Byte) : (s.adcWith m).params = s.params := rfl

@[simp] theorem State.opr_params (s : State) (utx apc ret : Bool) (rot : Rot) (cy : CarryFn) (xfer : Xfer) :
    (s.opr utx apc ret rot cy xfer).params = s.params := by
  cases utx <;> simp [State.opr]

theorem State.accMem_params {s : State} {op : State → Byte → State} (o : MemOperand)
    (hop : ∀ m, (op s m).params = s.params) : (s.accMem op o).params = s.params := by
  simp [State.accMem, hop]

theorem State.store_params (s : State) (o : MemOperand) : (s.store o).params = s.params :=
  (s.store_cases o).1

theorem State.skb_params (s : State) (i : Bool) (bit : BitVec 3) (o : MemOperand) :
    (s.skb i bit o).params = s.params :=
  (s.skb_cases i bit o).2.1

/-! ### The one access of an instruction (R40) -/

/-- What `exec i s` is, with `t` the state it goes on to where the map admits it: an instruction makes no access to
data, reads one byte, or stores one (R31, R32, R40). -/
inductive ExecAccess (i : Instr) (s t : State) : Prop
  | none (hread : readAddress i s = none) (hstore : storeAddress i s = none) (hexec : exec i s = .next t)
  | read (e : Word) (hread : readAddress i s = some e) (hstore : storeAddress i s = none)
      (hexec : exec i s = s.ifReadable e t)
  | store (e : Word) (hread : readAddress i s = none) (hstore : storeAddress i s = some e)
      (hexec : exec i s = s.ifWritable e t)

/-- Every instruction makes at most one access, goes on if the map admits it, and keeps the parameters. -/
theorem exec_access (i : Instr) (s : State) : ∃ t, t.params = s.params ∧ ExecAccess i s t := by
  cases i with
  | loadAbs | loadIdx | loadIdxPost =>
    exact ⟨_, State.accMem_params _ s.loadByte_params, .read _ rfl rfl rfl⟩
  | andAbs | andIdx | andIdxPost =>
    exact ⟨_, State.accMem_params _ s.andByte_params, .read _ rfl rfl rfl⟩
  | xorAbs | xorIdx | xorIdxPost =>
    exact ⟨_, State.accMem_params _ s.xorByte_params, .read _ rfl rfl rfl⟩
  | adcAbs | adcIdx | adcIdxPost =>
    exact ⟨_, State.accMem_params _ s.adcWith_params, .read _ rfl rfl rfl⟩
  | skbAbs | skbIdx | skbIdxPost => exact ⟨_, s.skb_params _ _ _, .read _ rfl rfl rfl⟩
  | storeAbs | storeIdx | storeIdxPost => exact ⟨_, s.store_params _, .store _ rfl rfl rfl⟩
  | opr utx apc ret rot cy xfer => exact ⟨_, s.opr_params utx apc ret rot cy xfer, .none rfl rfl rfl⟩
  | br cond addr11 =>
    refine ⟨_, ?_, .none rfl rfl rfl⟩
    exact s.condTested_params cond
  | nop | utx | apc | ret | rlc | rrc | clc | sec | tax | tay | lsl | lsr | retadd | uarttxr
  | loadImm | andImm | xorImm | adcImm | jump | call
  | brNz | brZ | brNc | brC | brNint | brInt | brNtick | brTick =>
    refine ⟨_, ?_, .none rfl rfl rfl⟩
    rfl

/-! ### The parameters (R5; log 25) -/

/-- An instruction that completes keeps the parameters. -/
theorem exec_params {i : Instr} {s t : State} (h : exec i s = .next t) : t.params = s.params := by
  obtain ⟨u, hu, haccess⟩ := exec_access i s
  suffices u = t from this ▸ hu
  cases haccess with
  | none _ _ hexec => simpa [hexec] using h
  | read e _ _ hexec => exact (State.ifReadable_next.mp (hexec.symm.trans h)).2
  | store e _ _ hexec => exact (State.ifWritable_next.mp (hexec.symm.trans h)).2

/-- A step that goes on keeps the parameters. -/
theorem step_params {s t : State} (h : step s = .next t) : t.params = s.params := by
  obtain ⟨-, i, -, hexec⟩ := step_next_cases h
  exact exec_params hexec

/-- Settles O54: an instruction has at most the one access of `exec_access`, and a step is an instruction. -/
theorem parametersNeverChange : Obligations.ParametersNeverChange :=
  fun _ _ => ⟨fun _ => exec_params, step_params⟩

/-! ### Where the map admits an access (log 26) -/

theorem State.ifReadable_refused {s : State} {addr : Word} (t : State) (h : s.readable addr = false) :
    s.ifReadable addr t = .refused (.outsideMemMap .read addr) := by
  simp [State.ifReadable, h]

theorem State.ifWritable_refused {s : State} {addr : Word} (t : State) (h : s.writable addr = false) :
    s.ifWritable addr t = .refused (.outsideMemMap .write addr) := by
  simp [State.ifWritable, h]

/-- An instruction completes exactly where the map admits its access. -/
theorem exec_next_iff_admits (i : Instr) (s : State) : (∃ t, exec i s = .next t) ↔ s.admits i = true := by
  obtain ⟨u, -, haccess⟩ := exec_access i s
  cases haccess with
  | none hread hstore hexec => simp [State.admits, hread, hstore, hexec]
  | read e hread hstore hexec => simp [State.admits, hread, hstore, hexec, State.ifReadable_next]
  | store e hread hstore hexec => simp [State.admits, hread, hstore, hexec, State.ifWritable_next]

theorem exec_refused_of_unreadable {i : Instr} {s : State} {e : Word} (he : readAddress i s = some e)
    (h : s.readable e = false) : exec i s = .refused (.outsideMemMap .read e) := by
  obtain ⟨u, -, haccess⟩ := exec_access i s
  cases haccess with
  | none hread | store _ hread => simp [hread] at he
  | read e' hread _ hexec =>
    obtain rfl : e' = e := Option.some.inj (hread.symm.trans he)
    exact hexec.trans (State.ifReadable_refused u h)

theorem exec_refused_of_unwritable {i : Instr} {s : State} {e : Word} (he : storeAddress i s = some e)
    (h : s.writable e = false) : exec i s = .refused (.outsideMemMap .write e) := by
  obtain ⟨u, -, haccess⟩ := exec_access i s
  cases haccess with
  | none _ hstore | read _ _ hstore => simp [hstore] at he
  | store e' _ hstore hexec =>
    obtain rfl : e' = e := Option.some.inj (hstore.symm.trans he)
    exact hexec.trans (State.ifWritable_refused u h)

/-- No instruction both reads data and stores (R40). -/
theorem readAddress_or_storeAddress_none (i : Instr) (s : State) :
    readAddress i s = none ∨ storeAddress i s = none := by
  obtain ⟨u, -, haccess⟩ := exec_access i s
  cases haccess with
  | none hread | store _ hread => exact .inl hread
  | read _ _ hstore => exact .inr hstore

/-- Settles O55, clause by clause from the one access of each instruction. -/
theorem memoryMapDecidesTheAccess : Obligations.MemoryMapDecidesTheAccess :=
  fun s i => ⟨exec_next_iff_admits i s, fun _ => exec_refused_of_unreadable,
    fun _ => exec_refused_of_unwritable, readAddress_or_storeAddress_none i s⟩

/-! ### What the map says of an address -/

/-- The first region that holds an address decides, its bounds taken as numbers. -/
theorem memKindAt_cons (r : MemRegion) (rest : List MemRegion) (addr : Word) :
    memKindAt (r :: rest) addr =
      if r.first.toNat ≤ addr.toNat ∧ addr.toNat ≤ r.last.toNat then some r.kind else memKindAt rest addr :=
  rfl

/-- An address is readable where something stands. -/
theorem State.readable_iff (s : State) (addr : Word) :
    s.readable addr = true ↔ memKindAt s.params.memMap addr ≠ none :=
  Option.isSome_iff_ne_none

/-- An address is writable where writable memory stands. -/
theorem State.writable_iff (s : State) (addr : Word) :
    s.writable addr = true ↔ memKindAt s.params.memMap addr = some .readWrite :=
  beq_iff_eq

/-- Under the default map every address may be read (R41, D18). -/
theorem State.readable_of_defaultMap {s : State} (h : s.params.memMap = memMap) (addr : Word) :
    s.readable addr = true := by
  simp [State.readable_iff, h, memKindAt_default]

/-- Under the default map every address may be written (R41, D18). -/
theorem State.writable_of_defaultMap {s : State} (h : s.params.memMap = memMap) (addr : Word) :
    s.writable addr = true := by
  rw [State.writable_iff, h, memKindAt_default]

/-- A step whose fetch reads where nothing stands is refused (R33; log 26). -/
theorem step_refused_of_unfetchable {s : State}
    (h : s.readable s.fetchEven = false ∨ s.readable s.fetchOdd = false) :
    step s = .refused (.outsideMemMap .fetch s.fetchEven) := by
  have hfetch : s.fetchable = false := Bool.and_eq_false_iff.mpr h
  simp [step, hfetch]

/-- Settles O56, from the laws of `memKindAt` and of the fetch. -/
theorem memoryMapSaysWhatStandsAtAnAddress : Obligations.MemoryMapSaysWhatStandsAtAnAddress :=
  ⟨fun addr => ⟨rfl, memKindAt_default addr⟩, memKindAt_cons,
    fun s addr => ⟨s.readable_iff addr, s.writable_iff addr⟩, fun _ => step_refused_of_unfetchable⟩

/-! ### Reset (R25, R200) -/

/-- Settles O14: a reset puts every field in place as it is given. -/
theorem resetLeavesPcZeroAndNothingSent : Obligations.ResetLeavesPcZeroAndNothingSent :=
  ⟨fun p ra x y a c image => ⟨State.powerOn p ra x y a c image,
    rfl, rfl, rfl, rfl, rfl, rfl, rfl, rfl, rfl, rfl, rfl, rfl, rfl, rfl⟩, rfl, rfl⟩

/-- Settles O53: the parameters after reset are the defaults, the default map among them. -/
theorem defaultParametersAfterReset : Obligations.DefaultParametersAfterReset :=
  ⟨rfl, rfl, rfl, rfl, rfl,
    fun addr => ⟨State.readable_of_defaultMap rfl addr, State.writable_of_defaultMap rfl addr⟩⟩

end Sys2Proof.Machine
end

section
/-! PROOFS. What an instruction reads and writes (spec R26). The fields that few instructions look at, `ra` (R13),
the output history (R22) and the records of the two inputs (R20, R21), are put together as `State.outer`. What an
instruction does to them, and that it does the same whatever they hold as long as it does not look at them, is said
once, by `exec_withOuter`; what it writes of the other fields is said once, by `exec_keepsUnwritten`. -/

namespace Sys2Proof.Machine

/-! ### The outer fields -/

/-- The fields that few instructions look at: `ra`, the output history and the records of the two inputs. -/
structure Outer where
  ra : CodeAddr
  uartOut : List Bool
  extIntQueue : List Bool
  extIntSamples : Nat
  tickQueue : List Bool
  tickSamples : Nat

/-- The outer fields of a state. -/
def State.outer (s : State) : Outer :=
  { ra := s.ra, uartOut := s.uartOut, extIntQueue := s.extIntQueue, extIntSamples := s.extIntSamples,
    tickQueue := s.tickQueue, tickSamples := s.tickSamples }

/-- `s` with other outer fields. -/
def State.withOuter (s : State) (o : Outer) : State :=
  { s with
    ra := o.ra, uartOut := o.uartOut, extIntQueue := o.extIntQueue, extIntSamples := o.extIntSamples,
    tickQueue := o.tickQueue, tickSamples := o.tickSamples }

/-- What the outer fields `o` are after the instruction `i`, run from a state that is `s` elsewhere: `call` saves the
next address (R13, R142), the `utx` function sends a bit (R22, R74), a sample is taken from its queue and counted
(R20, R21). -/
def Outer.after (o : Outer) (i : Instr) (s : State) : Outer :=
  { ra := if i.writesRa = true then s.nextPc else o.ra
    uartOut := if i.sendsBit = true then o.uartOut ++ [s.a.getLsbD 0] else o.uartOut
    extIntQueue := if i.samplesExtInt = true then o.extIntQueue.tail else o.extIntQueue
    extIntSamples := o.extIntSamples + if i.samplesExtInt = true then 1 else 0
    tickQueue := if i.samplesTick = true then o.tickQueue.tail else o.tickQueue
    tickSamples := o.tickSamples + if i.samplesTick = true then 1 else 0 }

/-- `o` holds what `s` holds in each outer field that the instruction `i` reads. -/
structure Outer.ReadAlike (o : Outer) (i : Instr) (s : State) : Prop where
  ra : i.readsRa = true → o.ra = s.ra
  extInt : i.samplesExtInt = true → o.extIntQueue = s.extIntQueue ∧ o.extIntSamples = s.extIntSamples
  tick : i.samplesTick = true → o.tickQueue = s.tickQueue ∧ o.tickSamples = s.tickSamples

theorem State.afterAccess_withOuter (s : State) (m : MemOperand) (o : Outer) :
    (s.withOuter o).afterAccess m = (s.afterAccess m).withOuter o := by
  cases m with
  | abs | idx => rfl
  | idxPost i => cases i <;> rfl

theorem State.store_withOuter (s : State) (m : MemOperand) (o : Outer) :
    (s.withOuter o).store m = (s.store m).withOuter o :=
  congrArg State.advance (State.afterAccess_withOuter (s.memWrite (s.ea m) s.a) m o)

theorem State.skb_withOuter (s : State) (i : Bool) (bit : BitVec 3) (m : MemOperand) (o : Outer) :
    (s.withOuter o).skb i bit m = (s.skb i bit m).withOuter o :=
  congrArg (State.setPc · (s.skb i bit m).pc) (s.afterAccess_withOuter m o)

theorem State.accMem_withOuter (s : State) {op : State → Byte → State} (m : MemOperand) (o : Outer)
    (hop : ∀ b, op (s.withOuter o) b = (op s b).withOuter o) :
    (s.withOuter o).accMem op m = (s.accMem op m).withOuter o :=
  congrArg State.advance
    ((congrArg (State.afterAccess · m) (hop (s.operand m))).trans (State.afterAccess_withOuter _ m o))

theorem State.opr_withOuter (s : State) (utx apc ret : Bool) (rot : Rot) (cy : CarryFn) (xfer : Xfer) {o : Outer}
    (h : ret = true → o.ra = s.ra) :
    (s.withOuter o).opr utx apc ret rot cy xfer =
      (s.opr utx apc ret rot cy xfer).withOuter (o.after (.opr utx apc ret rot cy xfer) s) := by
  have hpc (v : Byte) : (s.withOuter o).oprPc apc ret v = s.oprPc apc ret v := by
    cases ret with
    | false => rfl
    | true => simp [State.oprPc, State.withOuter, h rfl]
  unfold State.opr
  simp only [hpc]
  cases utx <;> cases xfer <;> rfl

theorem exec_br_withOuter (cond : Cond) (addr11 : BitVec 11) {s t : State} {o : Outer}
    (h : exec (.br cond addr11) s = .next t) (ho : o.ReadAlike (.br cond addr11) s) :
    exec (.br cond addr11) (s.withOuter o) = .next (t.withOuter (o.after (.br cond addr11) s)) := by
  obtain rfl := Host.Outcome.next.inj h
  obtain ⟨-, hext, htick⟩ := ho
  obtain ⟨ra, uartOut, extQueue, extSamples, tickQueue, tickSamples⟩ := o
  cases cond with
  | nz | z | nc | c => rfl
  | nint | int =>
    obtain ⟨rfl, rfl⟩ : extQueue = s.extIntQueue ∧ extSamples = s.extIntSamples := hext rfl
    rfl
  | ntick | tick =>
    obtain ⟨rfl, rfl⟩ : tickQueue = s.tickQueue ∧ tickSamples = s.tickSamples := htick rfl
    rfl

/-- Every instruction does the same whatever the outer fields hold that it does not read, and changes them as
`Outer.after` says. -/
theorem exec_withOuter {i : Instr} {s t : State} {o : Outer} (h : exec i s = .next t) (ho : o.ReadAlike i s) :
    exec i (s.withOuter o) = .next (t.withOuter (o.after i s)) := by
  obtain ⟨hra, hext, htick⟩ := ho
  cases i with
  | loadAbs | loadIdx | loadIdxPost | andAbs | andIdx | andIdxPost | xorAbs | xorIdx | xorIdxPost
  | adcAbs | adcIdx | adcIdxPost =>
    obtain ⟨hr, rfl⟩ := State.ifReadable_next.mp h
    exact State.ifReadable_next.mpr ⟨hr, s.accMem_withOuter _ o fun _ => rfl⟩
  | skbAbs | skbIdx | skbIdxPost =>
    obtain ⟨hr, rfl⟩ := State.ifReadable_next.mp h
    exact State.ifReadable_next.mpr ⟨hr, s.skb_withOuter _ _ _ o⟩
  | storeAbs | storeIdx | storeIdxPost =>
    obtain ⟨hw, rfl⟩ := State.ifWritable_next.mp h
    exact State.ifWritable_next.mpr ⟨hw, s.store_withOuter _ o⟩
  | opr utx apc ret rot cy xfer =>
    obtain rfl := Host.Outcome.next.inj h
    exact congrArg _ (s.opr_withOuter utx apc ret rot cy xfer hra)
  | ret | retadd =>
    obtain rfl := Host.Outcome.next.inj h
    obtain ⟨ra, _, _, _, _, _⟩ := o
    obtain rfl : ra = s.ra := hra rfl
    rfl
  | br cond addr11 => exact exec_br_withOuter cond addr11 h ⟨hra, hext, htick⟩
  | brNint addr11 => exact exec_br_withOuter .nint addr11 h ⟨hra, hext, htick⟩
  | brInt addr11 => exact exec_br_withOuter .int addr11 h ⟨hra, hext, htick⟩
  | brNtick addr11 => exact exec_br_withOuter .ntick addr11 h ⟨hra, hext, htick⟩
  | brTick addr11 => exact exec_br_withOuter .tick addr11 h ⟨hra, hext, htick⟩
  | nop | utx | apc | rlc | rrc | clc | sec | tax | tay | lsl | lsr | uarttxr
  | loadImm | andImm | xorImm | adcImm | jump | call | brNz | brZ | brNc | brC =>
    obtain rfl := Host.Outcome.next.inj h
    rfl

/-- What an instruction writes of the outer fields: run with its own ones put in, it is the same instruction. -/
theorem exec_outer {i : Instr} {s t : State} (h : exec i s = .next t) : t.outer = s.outer.after i s := by
  have hself := exec_withOuter (o := s.outer) h ⟨fun _ => rfl, fun _ => ⟨rfl, rfl⟩, fun _ => ⟨rfl, rfl⟩⟩
  have ht : t = t.withOuter (s.outer.after i s) := Host.Outcome.next.inj (h.symm.trans hself)
  exact congrArg State.outer ht

theorem exec_ra {i : Instr} {s t : State} (h : exec i s = .next t) :
    t.ra = if i.writesRa = true then s.nextPc else s.ra :=
  congrArg Outer.ra (exec_outer h)

theorem exec_uartOut {i : Instr} {s t : State} (h : exec i s = .next t) :
    t.uartOut = if i.sendsBit = true then s.uartOut ++ [s.a.getLsbD 0] else s.uartOut :=
  congrArg Outer.uartOut (exec_outer h)

theorem exec_extIntSamples {i : Instr} {s t : State} (h : exec i s = .next t) :
    t.extIntSamples = s.extIntSamples + if i.samplesExtInt = true then 1 else 0 :=
  congrArg Outer.extIntSamples (exec_outer h)

theorem exec_tickSamples {i : Instr} {s t : State} (h : exec i s = .next t) :
    t.tickSamples = s.tickSamples + if i.samplesTick = true then 1 else 0 :=
  congrArg Outer.tickSamples (exec_outer h)

/-! ### Each outer field apart -/

/-- An instruction that does not sample the external interrupt does the same whatever its queue and count are. -/
theorem exec_withExtInt {i : Instr} {s t : State} (h : exec i s = .next t) (hi : i.samplesExtInt = false)
    (q : List Bool) (n : Nat) :
    exec i { s with extIntQueue := q, extIntSamples := n } =
      .next { t with extIntQueue := q, extIntSamples := n } := by
  have ho : ({ s.outer with extIntQueue := q, extIntSamples := n } : Outer).after i s =
      { t.outer with extIntQueue := q, extIntSamples := n } := by
    simp [exec_outer h, Outer.after, hi]
  exact (exec_withOuter h ⟨fun _ => rfl, by simp [hi], fun _ => ⟨rfl, rfl⟩⟩).trans (by rw [ho])

/-- An instruction that does not sample the clock tick does the same whatever its queue and count are. -/
theorem exec_withTick {i : Instr} {s t : State} (h : exec i s = .next t) (hi : i.samplesTick = false)
    (q : List Bool) (n : Nat) :
    exec i { s with tickQueue := q, tickSamples := n } =
      .next { t with tickQueue := q, tickSamples := n } := by
  have ho : ({ s.outer with tickQueue := q, tickSamples := n } : Outer).after i s =
      { t.outer with tickQueue := q, tickSamples := n } := by
    simp [exec_outer h, Outer.after, hi]
  exact (exec_withOuter h ⟨fun _ => rfl, fun _ => ⟨rfl, rfl⟩, by simp [hi]⟩).trans (by rw [ho])

/-- An instruction without the `ret` function does the same whatever `ra` holds. -/
theorem exec_withRa {i : Instr} {s t : State} (h : exec i s = .next t) (hi : i.readsRa = false) (v : CodeAddr) :
    exec i { s with ra := v } = .next { t with ra := if i.writesRa = true then t.ra else v } := by
  have ho : ({ s.outer with ra := v } : Outer).after i s =
      { t.outer with ra := if i.writesRa = true then t.ra else v } := by
    simp +contextual [exec_outer h, exec_ra h, Outer.after]
  exact (exec_withOuter h ⟨by simp [hi], fun _ => ⟨rfl, rfl⟩, fun _ => ⟨rfl, rfl⟩⟩).trans (by rw [ho])

/-- The bits that an instruction sends, run from `s` (R22, R74). -/
def sentBits (i : Instr) (s : State) : List Bool := if i.sendsBit = true then [s.a.getLsbD 0] else []

theorem sentBits_length_le (i : Instr) (s : State) : (sentBits i s).length ≤ 1 := by
  unfold sentBits
  split <;> simp

theorem Outer.after_uartOut (o : Outer) (i : Instr) (s : State) :
    (o.after i s).uartOut = o.uartOut ++ sentBits i s := by
  by_cases hi : i.sendsBit = true <;> simp [Outer.after, sentBits, hi]

/-- Every instruction does the same whatever has been sent, and appends the bit it sends. -/
theorem exec_withUartOut {i : Instr} {s t : State} (h : exec i s = .next t) (history : List Bool) :
    exec i { s with uartOut := history } = .next { t with uartOut := history ++ sentBits i s } := by
  have ho : ({ s.outer with uartOut := history } : Outer).after i s =
      { t.outer with uartOut := history ++ sentBits i s } := by
    rw [← Outer.after_uartOut { s.outer with uartOut := history }, exec_outer h]
    rfl
  exact (exec_withOuter h ⟨fun _ => rfl, fun _ => ⟨rfl, rfl⟩, fun _ => ⟨rfl, rfl⟩⟩).trans (by rw [ho])

/-- A step from where an instruction is fetched and decoded is the instruction. -/
theorem step_eq_exec {s : State} {i : Instr} (hfetch : s.fetchable = true) (hdec : s.decoded = .ok i) :
    step s = exec i s := by
  simp [step, execDecoded, hfetch, hdec]

/-- Settles O21: an instruction appends the bit it sends, and neither it nor the fetch looks at the history. -/
theorem uartHistoryGrowsAndIsNeverRead : Obligations.UartHistoryGrowsAndIsNeverRead := by
  intro s t h
  obtain ⟨hfetch, i, hdec, hexec⟩ := step_next_cases h
  refine ⟨sentBits i s, sentBits_length_le i s, ?_, fun history => ?_⟩
  · exact (congrArg Outer.uartOut (exec_outer hexec)).trans (s.outer.after_uartOut i s)
  · exact (step_eq_exec (s := { s with uartOut := history }) hfetch hdec).trans (exec_withUartOut hexec history)

/-- Settles O20: the counts from the outer fields, the independence for each input apart. -/
theorem inputsAreSampledByBrAlone : Obligations.InputsAreSampledByBrAlone :=
  fun _ _ _ h => ⟨exec_extIntSamples h, exec_tickSamples h, exec_withExtInt h, exec_withTick h⟩

/-- Settles O22: `ra` is an outer field, read by the `ret` function alone. -/
theorem returnAddressIsReadByRetAlone : Obligations.ReturnAddressIsReadByRetAlone :=
  fun _ _ _ v hi h => exec_withRa h hi v

/-! ### The other fields -/

/-- What `i` may write of the fields that are not outer ones, from `s` to `t`: only its named writers change a field
(R12, R14 to R17, R32). -/
structure KeepsUnwritten (i : Instr) (s t : State) : Prop where
  pc : i.transfersControl = false → t.pc = s.pc + 2#12
  x : i.writesX = false → t.x = s.x
  y : i.writesY = false → t.y = s.y
  a : i.writesA = false → t.a = s.a
  c : i.writesC = false → t.c = s.c
  mem : i.writesMem = false → t.mem = s.mem

theorem State.opr_keepsUnwritten (s : State) (utx apc ret : Bool) (rot : Rot) (cy : CarryFn) (xfer : Xfer) :
    KeepsUnwritten (.opr utx apc ret rot cy xfer) s (s.opr utx apc ret rot cy xfer) := by
  constructor
  case pc => simp +contextual [Instr.transfersControl, State.opr, State.oprPc, State.nextPc]
  case x => cases utx <;> simp +contextual [Instr.writesX, State.opr]
  case y => cases utx <;> simp +contextual [Instr.writesY, State.opr]
  case a => simp +contextual [Instr.writesA, State.opr, rotByte]
  case c => simp +contextual [Instr.writesC, State.opr, rotCarry, carryFn]
  case mem => cases utx <;> simp [State.opr]

/-- A field changes only under its named writers. -/
theorem exec_keepsUnwritten {i : Instr} {s t : State} (h : exec i s = .next t) : KeepsUnwritten i s t := by
  cases i with
  | loadAbs | loadIdx | loadIdxPost | andAbs | andIdx | andIdxPost | xorAbs | xorIdx | xorIdxPost =>
    obtain ⟨-, rfl⟩ := State.ifReadable_next.mp h
    constructor <;> simp [State.accMem, State.loadByte, State.andByte, State.xorByte, Instr.writesX, Instr.writesY,
      Instr.increments, Instr.writesA]
  | adcAbs | adcIdx | adcIdxPost =>
    obtain ⟨-, rfl⟩ := State.ifReadable_next.mp h
    constructor <;> simp [State.accMem, State.adcWith, Instr.writesX, Instr.writesY, Instr.increments,
      Instr.writesA, Instr.writesC]
  | skbAbs | skbIdx | skbIdxPost =>
    obtain ⟨-, rfl⟩ := State.ifReadable_next.mp h
    constructor <;> simp [State.skb_cases, Instr.transfersControl, Instr.writesX, Instr.writesY, Instr.increments]
  | storeAbs | storeIdx | storeIdxPost =>
    obtain ⟨-, rfl⟩ := State.ifWritable_next.mp h
    constructor <;> simp [State.store_cases, Instr.writesX, Instr.writesY, Instr.increments, Instr.writesMem]
  | opr utx apc ret rot cy xfer =>
    obtain rfl := Host.Outcome.next.inj h
    exact s.opr_keepsUnwritten utx apc ret rot cy xfer
  | apc | ret | retadd | jump | call | br | brNz | brZ | brNc | brC | brNint | brInt | brNtick | brTick =>
    obtain rfl := Host.Outcome.next.inj h
    constructor <;> simp [Instr.transfersControl]
  | tax | tay =>
    obtain rfl := Host.Outcome.next.inj h
    constructor <;> simp [Instr.writesX, Instr.writesY]
  | nop | utx | rlc | rrc | clc | sec | lsl | lsr | uarttxr =>
    obtain rfl := Host.Outcome.next.inj h
    constructor <;> simp [Instr.writesA, Instr.writesC]
  | loadImm | andImm | xorImm | adcImm =>
    obtain rfl := Host.Outcome.next.inj h
    constructor <;> simp [State.loadByte, State.andByte, State.xorByte, State.adcWith, Instr.writesA, Instr.writesC]

/-- Settles O18: `ra` and the output are outer fields, the others change only under their named writers. -/
theorem registerWriteSets : Obligations.RegisterWriteSets := by
  intro s t i h
  obtain ⟨hpc, hx, hy, ha, hc, -⟩ := exec_keepsUnwritten h
  refine ⟨hpc, fun hi => ?_, hx, hy, ha, hc, fun hi => ?_, fun hi => ?_⟩
  · simp [exec_ra h, hi]
  · simp [exec_uartOut h, hi]
  · simp [exec_uartOut h, hi]

/-! ### The invariant (R11, R13, R32) -/

theorem State.branchIf_pc_even {s : State} (h : evenAddr s.pc = true) (holds : Bool) (addr11 : BitVec 11) :
    evenAddr (s.branchIf holds addr11).pc = true := by
  cases holds with
  | false => exact evenAddr_add h rfl
  | true => exact branchTarget_even addr11

theorem State.skb_pc_even {s : State} (h : evenAddr s.pc = true) (i : Bool) (bit : BitVec 3) (o : MemOperand) :
    evenAddr (s.skb i bit o).pc = true := by
  rw [(s.skb_cases i bit o).1]
  split
  · exact evenAddr_add h rfl
  · exact evenAddr_add h rfl

theorem State.oprPc_even {s : State} (hpc : evenAddr s.pc = true) (hra : evenAddr s.ra = true) (apc ret : Bool)
    (v : Byte) : evenAddr (s.oprPc apc ret v) = true := by
  have hbase : evenAddr (if ret = true then s.ra else s.nextPc) = true := by
    cases ret with
    | false => exact evenAddr_add hpc rfl
    | true => exact hra
  cases apc with
  | false => exact hbase
  | true => exact evenAddr_skipWords hbase v

/-- No instruction makes `pc` odd: it goes on, skips, branches to a doubled field, or moves from an even base by whole
instructions. -/
theorem exec_pc_even {i : Instr} {s t : State} (hpc : evenAddr s.pc = true) (hra : evenAddr s.ra = true)
    (h : exec i s = .next t) : evenAddr t.pc = true := by
  cases htransfer : i.transfersControl with
  | false =>
    rw [(exec_keepsUnwritten h).pc htransfer]
    exact evenAddr_add hpc rfl
  | true =>
    cases i with
    | skbAbs | skbIdx | skbIdxPost =>
      obtain ⟨-, rfl⟩ := State.ifReadable_next.mp h
      exact State.skb_pc_even hpc _ _ _
    | opr =>
      obtain rfl := Host.Outcome.next.inj h
      exact State.oprPc_even hpc hra _ _ _
    | apc =>
      obtain rfl := Host.Outcome.next.inj h
      exact evenAddr_skipWords (evenAddr_add hpc rfl) _
    | ret =>
      obtain rfl := Host.Outcome.next.inj h
      exact hra
    | retadd =>
      obtain rfl := Host.Outcome.next.inj h
      exact evenAddr_skipWords hra _
    | jump addr11 | call addr11 =>
      obtain rfl := Host.Outcome.next.inj h
      exact branchTarget_even addr11
    | br cond =>
      obtain rfl := Host.Outcome.next.inj h
      exact State.branchIf_pc_even ((s.condTested_pc cond).symm ▸ hpc) _ _
    | brNz | brZ | brNc | brC | brNint | brInt | brNtick | brTick =>
      obtain rfl := Host.Outcome.next.inj h
      refine State.branchIf_pc_even ?_ _ _
      exact hpc
    | _ => cases htransfer

/-- `call`, the one writer of `ra`, saves the address after it (R142). -/
theorem exec_ra_even {i : Instr} {s t : State} (hpc : evenAddr s.pc = true) (hra : evenAddr s.ra = true)
    (h : exec i s = .next t) : evenAddr t.ra = true := by
  rw [exec_ra h]
  split
  · exact evenAddr_add hpc rfl
  · exact hra

/-- `store`, the one writer of memory, keeps its canonical form. -/
theorem exec_mem_wf {i : Instr} {s t : State} (hmem : s.mem.wf = true) (h : exec i s = .next t) :
    t.mem.wf = true := by
  cases hwrites : i.writesMem with
  | false => rwa [(exec_keepsUnwritten h).mem hwrites]
  | true =>
    cases i with
    | storeAbs | storeIdx | storeIdxPost =>
      obtain ⟨-, rfl⟩ := State.ifWritable_next.mp h
      rw [(s.store_cases _).2.1]
      exact Memory.wf_write hmem (BitVec.isLt _) _
    | _ => cases hwrites

theorem exec_keeps_inv {i : Instr} {s t : State} (hinv : s.Inv) (h : exec i s = .next t) : t.Inv := by
  obtain ⟨hpc, hra, hmem⟩ := hinv
  exact ⟨exec_pc_even hpc hra h, exec_ra_even hpc hra h, exec_mem_wf hmem h⟩

/-- Settles O16: a step that goes on is an instruction, and every instruction keeps the invariant. -/
theorem stepKeepsTheInvariant : Obligations.StepKeepsTheInvariant := by
  intro s t hinv h
  obtain ⟨-, i, -, hexec⟩ := step_next_cases h
  exact exec_keeps_inv hinv hexec

/-- Settles O15: a reset takes `pc`, `ra` and memory as they are given. -/
theorem resetMeetsTheInvariant : Obligations.ResetMeetsTheInvariant :=
  ⟨⟨rfl, rfl, State.reset_mem_wf⟩, fun _ _ _ _ _ _ _ hpc hra hmem => ⟨hpc, hra, hmem⟩⟩

end Sys2Proof.Machine
end

section
/-! PROOFS. The decoder reads what the encoder writes (spec R60, R64), under either policy on bits 7:1. Each group of
the encoding map gives back the fields put in, and `decodeWordWith_encode` says it of every instruction: an encoding
decodes to the canonical name of its instruction (log 22). -/

namespace Sys2Proof

theorem decodeWordWith_of_decodeRow {policy : UnusedBitsPolicy} {w : Word} {i : Instr}
    (h : decodeRow policy w = .ok i) : decodeWordWith policy w = .ok (canonical i) := by
  simp [decodeWordWith, h]

/-! ### `opr` and `br`, whose words have two names (R57, R160; log 22) -/

theorem ofBool_beq_one (b : Bool) : (BitVec.ofBool b == 1#1) = b := by cases b <;> rfl

/-- The fields of an `opr` word, its opcode bits taken three ways: with bit 11, alone, and the reserved ones. -/
theorem extract_encodeOpr (u p r : Bool) (rot : Rot) (cy : CarryFn) (xfer : Xfer) :
    (encodeOpr u p r rot cy xfer).extractLsb' 11 5 = 0#5 ∧
    (encodeOpr u p r rot cy xfer).extractLsb' 12 4 = 0#4 ∧
    (encodeOpr u p r rot cy xfer).extractLsb' 9 3 = 0#3 ∧
    (encodeOpr u p r rot cy xfer).extractLsb' 8 1 = BitVec.ofBool u ∧
    (encodeOpr u p r rot cy xfer).extractLsb' 7 1 = BitVec.ofBool p ∧
    (encodeOpr u p r rot cy xfer).extractLsb' 6 1 = BitVec.ofBool r ∧
    (encodeOpr u p r rot cy xfer).extractLsb' 4 2 = rotBits rot ∧
    (encodeOpr u p r rot cy xfer).extractLsb' 2 2 = cyBits cy ∧
    (encodeOpr u p r rot cy xfer).extractLsb' 0 2 = xferBits xfer := by
  simp [encodeOpr,
    extract_append_high (m := 14), extract_append_low (m := 14),
    extract_append_high (m := 12), extract_append_low (m := 12),
    extract_append_high (m := 10), extract_append_low (m := 10),
    extract_append_high (m := 9), extract_append_low (m := 9),
    extract_append_high (m := 8), extract_append_low (m := 8),
    extract_append_high (m := 7), extract_append_low (m := 7)]

/-- Every combination of the `opr` functions is the one decoded (R57, R72). -/
theorem decodeRow_encodeOpr (policy : UnusedBitsPolicy) (u p r : Bool) (rot : Rot) (cy : CarryFn) (xfer : Xfer) :
    decodeRow policy (encodeOpr u p r rot cy xfer) = .ok (.opr u p r rot cy xfer) := by
  obtain ⟨hopcode, hrow, hreserved, hu, hp, hr, hrot, hcy, hxfer⟩ := extract_encodeOpr u p r rot cy xfer
  have hrotField : rotField (encodeOpr u p r rot cy xfer) = some rot := by
    cases rot <;> simp [rotField, hrot, rotBits]
  have hcyField : cyField (encodeOpr u p r rot cy xfer) = some cy := by
    cases cy <;> simp [cyField, hcy, cyBits]
  have hxferField : xferField (encodeOpr u p r rot cy xfer) = some xfer := by
    cases xfer <;> simp [xferField, hxfer, xferBits]
  simp [decodeRow, decodeOpr, jumpOpcode, callOpcode, bitField, ofBool_beq_one, hopcode, hrow, hreserved,
    hu, hp, hr, hrotField, hcyField, hxferField]

/-- Every condition and target of `br` is the one decoded (R160). -/
theorem decodeRow_encodeBr (policy : UnusedBitsPolicy) (cond : Cond) (addr11 : BitVec 11) :
    decodeRow policy (encodeBr cond addr11) = .ok (.br cond addr11) := by
  cases cond <;> simp [decodeRow, encodeBr, condBits, condField, jumpOpcode, callOpcode]

theorem decodeWordWith_encodeOpr (policy : UnusedBitsPolicy) (u p r : Bool) (rot : Rot) (cy : CarryFn) (xfer : Xfer) :
    decodeWordWith policy (encodeOpr u p r rot cy xfer) = .ok (nameOpr u p r rot cy xfer) :=
  decodeWordWith_of_decodeRow (decodeRow_encodeOpr policy u p r rot cy xfer)

theorem decodeWordWith_encodeBr (policy : UnusedBitsPolicy) (cond : Cond) (addr11 : BitVec 11) :
    decodeWordWith policy (encodeBr cond addr11) = .ok (nameBr cond addr11) :=
  decodeWordWith_of_decodeRow (decodeRow_encodeBr policy cond addr11)

/-! ### Every instruction -/

/-- The low byte of an indexed form is admitted by either policy and names the index register (R53, R54). -/
theorem decodeIndexed_idxByte (policy : UnusedBitsPolicy) (high : Byte) (idx : Idx) (mk : Idx → Instr) :
    decodeIndexed policy (high ++ idxByte idx) mk = .ok (mk idx) := by
  have hadmitted : indexBitsAdmitted policy (high ++ idxByte idx) = true := by
    cases policy with
    | ignore => rfl
    | refuse => cases idx <;> simp [indexBitsAdmitted, idxByte]
  have hfield : idxField (high ++ idxByte idx) = idx := by
    cases idx <;> simp [idxField, bitField, idxByte]
  simp [decodeIndexed, hadmitted, hfield]

/-- The encoding of an instruction decodes to its canonical name. -/
theorem decodeWordWith_encode (policy : UnusedBitsPolicy) (i : Instr) :
    decodeWordWith policy (encode i) = .ok (canonical i) := by
  cases i with
  | opr => exact decodeWordWith_encodeOpr policy _ _ _ _ _ _
  | nop | utx | apc | ret | rlc | rrc | clc | sec | tax | tay | lsl | lsr | retadd | uarttxr => rfl
  | br | brNz | brZ | brNc | brC | brNint | brInt | brNtick | brTick => exact decodeWordWith_encodeBr policy _ _
  | jump | call =>
    refine decodeWordWith_of_decodeRow ?_
    simp [decodeRow, encode, jumpOpcode, callOpcode]
  | storeAbs | storeIdx | storeIdxPost =>
    refine decodeWordWith_of_decodeRow ?_
    simp [decodeRow, encode, jumpOpcode, callOpcode, decodeStore, decodeIndexed_idxByte]
  | loadImm | andImm | xorImm | adcImm =>
    refine decodeWordWith_of_decodeRow ?_
    simp [decodeRow, encode, jumpOpcode, callOpcode, decodeAcc, accImm]
  | loadAbs | andAbs | xorAbs | adcAbs =>
    refine decodeWordWith_of_decodeRow ?_
    simp [decodeRow, encode, jumpOpcode, callOpcode, decodeAcc, accAbs]
  | loadIdx | andIdx | xorIdx | adcIdx =>
    refine decodeWordWith_of_decodeRow ?_
    simp [decodeRow, encode, jumpOpcode, callOpcode, decodeAcc, accIdx, decodeIndexed_idxByte]
  | loadIdxPost | andIdxPost | xorIdxPost | adcIdxPost =>
    refine decodeWordWith_of_decodeRow ?_
    simp [decodeRow, encode, jumpOpcode, callOpcode, decodeAcc, accIdxPost, decodeIndexed_idxByte]
  | skbAbs i | skbIdx i | skbIdxPost i =>
    refine decodeWordWith_of_decodeRow ?_
    cases i <;> simp [decodeRow, encode, jumpOpcode, callOpcode, decodeSkb, decodeIndexed_idxByte, bitField]

end Sys2Proof
end

section
/-! PROOFS. Memory, the fetch and `store` (spec R30 to R33, R44, R100). The canonical form is determined by its bytes;
a word placed at `pc` is the word that runs next; what an instruction that stores does is said once, by
`exec_store_cases`. -/

namespace Sys2Proof.Machine

/-! ### The canonical form (R30; log 8) -/

/-- The first byte listed differs from what an unlisted address reads as. -/
theorem Memory.read_head_ne {low k : Nat} {v : Byte} {rest : Memory}
    (h : Memory.wfFrom low ((k, v) :: rest) = true) : Memory.read ((k, v) :: rest) k ≠ Config.unlistedByte := by
  obtain ⟨-, -, hv, -⟩ := Memory.wfFrom_cons.mp h
  rwa [Memory.read_cons, if_pos rfl]

/-- A memory that reads as another does at the other's first address lists no later address first. -/
theorem Memory.head_le_of_read_eq {low low' k k' : Nat} {v v' : Byte} {rest rest' : Memory}
    (h : Memory.wfFrom low ((k, v) :: rest) = true) (h' : Memory.wfFrom low' ((k', v') :: rest') = true)
    (hread : Memory.read ((k, v) :: rest) k = Memory.read ((k', v') :: rest') k) : k' ≤ k := by
  obtain ⟨-, htail⟩ := Memory.wfFrom_cons.mp h'
  by_contra hlt
  have hbelow := Memory.read_below (Memory.wfFrom_cons.mpr ⟨le_refl k', htail⟩) (Nat.lt_of_not_le hlt)
  exact Memory.read_head_ne h (hread.trans hbelow)

/-- Memories in canonical form that read alike are the same list of cells: they have the same first cell, and below
the rest of either every address reads as unlisted. -/
theorem Memory.eq_of_read_eq {low : Nat} {m m' : Memory} (h : Memory.wfFrom low m = true)
    (h' : Memory.wfFrom low m' = true) (hread : ∀ b < 65536, m.read b = m'.read b) : m = m' := by
  induction m generalizing low m' with
  | nil =>
    cases m' with
    | nil => rfl
    | cons cell' rest' =>
      obtain ⟨-, hk', -, -⟩ := Memory.wfFrom_cons.mp h'
      exact absurd (hread _ hk').symm (Memory.read_head_ne h')
  | cons cell rest ih =>
    obtain ⟨k, v⟩ := cell
    obtain ⟨-, hk, -, hrest⟩ := Memory.wfFrom_cons.mp h
    cases m' with
    | nil => exact absurd (hread k hk) (Memory.read_head_ne h)
    | cons cell' rest' =>
      obtain ⟨k', v'⟩ := cell'
      obtain ⟨-, hk', -, hrest'⟩ := Memory.wfFrom_cons.mp h'
      obtain rfl : k = k' := Nat.le_antisymm (Memory.head_le_of_read_eq h' h (hread k' hk').symm)
        (Memory.head_le_of_read_eq h h' (hread k hk))
      obtain rfl : v = v' := by simpa [Memory.read_cons] using hread k hk
      refine congrArg _ (ih hrest hrest' fun b hb => ?_)
      rcases Nat.lt_or_ge k b with hlt | hge
      · simpa [Memory.read_cons, hlt.ne] using hread b hb
      · rw [Memory.read_below hrest (by omega), Memory.read_below hrest' (by omega)]

/-- Settles O13: the 65536 addresses are the 16-bit ones. -/
theorem canonicalMemoryIsItsBytes : Obligations.CanonicalMemoryIsItsBytes :=
  fun _ _ h h' hread => Memory.eq_of_read_eq h h' fun b hb => by
    simpa [Nat.mod_eq_of_lt hb] using hread (BitVec.ofNat 16 b)

/-! ### The fetch and the word at `pc` (R33, R64) -/

/-- The word of two bytes as the statements write it out (R33). -/
theorem joinBytes_eq_ite (order : ByteOrder) (even odd : Byte) :
    joinBytes order even odd = if order = .little then odd ++ even else even ++ odd := by
  cases order <;> rfl

/-- Settles O7: the word of the statement is the word fetched. -/
theorem stepRunsTheDecodedInstruction : Obligations.StepRunsTheDecodedInstruction := by
  rintro s i even odd w rfl rfl rfl hfetch hdec
  have hword := s.fetch_eq.trans (joinBytes_eq_ite _ _ _)
  exact step_eq_exec hfetch (by rw [State.decoded, hword, hdec])

theorem State.withFetchWord_toNat (s : State) (w : Word) : s.withFetchWord 16 w.toNat = s.placeWord w := by
  simp [State.withFetchWord, Nat.mod_eq_of_lt w.isLt]

/-- A word placed changes the two bytes that the fetch reads and no other. -/
theorem State.read_placeWord {s : State} (h : s.mem.wf = true) (w : Word) {b : Nat} (heven : b ≠ s.pc.toNat)
    (hodd : b ≠ s.pc.toNat + 1) : (s.placeWord w).mem.read b = s.mem.read b := by
  have hwf := State.memWrite_wf h s.fetchEven (evenByte s.params.instrByteOrder w)
  rw [State.placeWord, State.memWrite_mem, Memory.read_write hwf, State.memWrite_mem, Memory.read_write h,
    State.fetchOdd_toNat, State.fetchEven_toNat, if_neg hodd, if_neg heven]

/-- An instruction placed where memory stands is the next step, under its canonical name. -/
theorem step_placeWord_encode {s : State} (h : s.mem.wf = true) (hfetch : s.fetchable = true) (i : Instr) :
    step (s.placeWord (encode i)) = exec (canonical i) (s.placeWord (encode i)) := by
  refine step_eq_exec hfetch ?_
  rw [State.decoded, State.fetch_placeWord h, decodeWordWith_encode]

/-- Settles O10: the table word of the instruction is its encoding, placed, fetched and decoded. -/
theorem placedInstructionRunsNext : Obligations.PlacedInstructionRunsNext :=
  fun s i hmem hfetch => ⟨s.placeWord (encode i), (s.withFetchWord_toNat (encode i)).symm,
    step_placeWord_encode hmem hfetch i, rfl, fun _ => State.read_placeWord hmem (encode i)⟩

/-! ### What a store writes (R32, R100) -/

theorem storeAddress_isSome (i : Instr) (s : State) : (storeAddress i s).isSome = i.writesMem := by
  cases i <;> rfl

/-- What an instruction that stores has done: the `store` of its operand, which is a postincrement form exactly where
the instruction increments (R100 to R103). -/
theorem exec_store_cases {i : Instr} {s t : State} {e : Word} (he : storeAddress i s = some e)
    (h : exec i s = .next t) :
    ∃ o, s.ea o = e ∧ t = s.store o ∧ ∀ j, i.increments = some j ↔ o = .idxPost j := by
  cases i with
  | storeAbs addr8 =>
    exact ⟨.abs addr8, Option.some.inj he, (State.ifWritable_next.mp h).2.symm, by simp [Instr.increments]⟩
  | storeIdx idx =>
    exact ⟨.idx idx, Option.some.inj he, (State.ifWritable_next.mp h).2.symm, by simp [Instr.increments]⟩
  | storeIdxPost idx =>
    exact ⟨.idxPost idx, Option.some.inj he, (State.ifWritable_next.mp h).2.symm, by simp [Instr.increments]⟩
  | _ => cases he

/-- A byte after a store: the accumulator at the address stored to, every other byte as before (R32). -/
theorem exec_store_read {i : Instr} {s t : State} {e : Word} (hmem : s.mem.wf = true)
    (he : storeAddress i s = some e) (h : exec i s = .next t) (b : Nat) :
    t.mem.read b = if e.toNat = b then s.a else s.mem.read b := by
  obtain ⟨o, rfl, rfl, -⟩ := exec_store_cases he h
  obtain ⟨-, hstored, -⟩ := s.store_cases o
  rw [hstored, Memory.read_write hmem]
  exact if_congr eq_comm rfl rfl

/-- Settles O17: a form of `store` has an address and writes one byte there, every other instruction has none. -/
theorem onlyStoreWritesMemory : Obligations.OnlyStoreWritesMemory := by
  intro s t i h
  refine ⟨storeAddress_isSome i s, fun hnone => ?_, fun e he hmem => ⟨?_, fun b hb => ?_⟩⟩
  · exact (exec_keepsUnwritten h).mem (by rw [← storeAddress_isSome i s, hnone, Option.isSome_none])
  · rw [exec_store_read hmem he h, if_pos rfl]
  · rw [exec_store_read hmem he h, if_neg hb.symm]

/-- Settles O19: every register from the `store` of the operand, every byte from the read after it. -/
theorem storeFrame : Obligations.StoreFrame := by
  intro s t i e hmem he h
  have hbytes (b : Word) (hb : b ≠ e) : t.memRead b = s.memRead b :=
    (exec_store_read hmem he h b.toNat).trans (if_neg (BitVec.toNat_ne.mp hb.symm))
  obtain ⟨o, -, rfl, hinc⟩ := exec_store_cases he h
  obtain ⟨hparams, -, hpc, hra, ha, hc, hx, hy, hout, hextq, hextn, htickq, htickn⟩ := s.store_cases o
  simp only [hinc]
  exact ⟨hpc, hra, ha, hc, hout, hparams, hextq, hextn, htickq, htickn, hx, hy, hbytes⟩

/-- Settles O11: the two bytes of the next fetch are read after the store. -/
theorem storeIsSeenByTheNextFetch : Obligations.StoreIsSeenByTheNextFetch := by
  intro s t i e hmem he h
  refine ⟨_, _, exec_store_read hmem he h _, exec_store_read hmem he h _, ?_⟩
  rw [State.fetch_eq, joinBytes_eq_ite, exec_params h]

end Sys2Proof.Machine
end


section
/-! PROOFS. The names of a word (spec R64, R65, R161; log 22). The canonical name of an instruction has the word and
the meaning of the instruction, and the well-formed instructions are those that bear it. With `decodeWordWith_encode`
this is the round trip from an instruction to its word and back. -/

namespace Sys2Proof

/-! ### Which terms bear their canonical name -/

/-- The combinations that are renamed are those with a row of their own in the table (R71 to R86). -/
theorem nameOpr_ne_opr_iff (u p r : Bool) (rot : Rot) (cy : CarryFn) (xfer : Xfer) :
    nameOpr u p r rot cy xfer ≠ .opr u p r rot cy xfer ↔ hasOwnRow u p r rot cy xfer = true := by
  constructor
  · fun_cases nameOpr u p r rot cy xfer with
    | case15 => exact fun h => absurd rfl h
    | _ => exact fun _ => rfl
  · fun_cases hasOwnRow u p r rot cy xfer with
    | case1 => cases xfer <;> simp [nameOpr]
    | case3 => cases r <;> simp [nameOpr]
    | _ => simp [nameOpr]

theorem wellFormed_iff_canonical_eq (i : Instr) : i.wellFormed = true ↔ canonical i = i := by
  cases i with
  | opr u p r rot cy xfer =>
    rw [Instr.wellFormed, Bool.not_eq_true', ← Bool.not_eq_true, ← nameOpr_ne_opr_iff, not_ne_iff, canonical]
  | br cond => cases cond <;> simp [Instr.wellFormed, canonical, nameBr]
  | _ => exact iff_of_true rfl rfl

/-! ### The word of a canonical name -/

theorem encode_nameOpr (u p r : Bool) (rot : Rot) (cy : CarryFn) (xfer : Xfer) :
    encode (nameOpr u p r rot cy xfer) = encodeOpr u p r rot cy xfer := by
  fun_cases nameOpr u p r rot cy xfer <;> rfl

theorem encode_canonical (i : Instr) : encode (canonical i) = encode i := by
  cases i with
  | opr => exact encode_nameOpr _ _ _ _ _ _
  | br cond => cases cond <;> rfl
  | _ => rfl

/-- A canonical name is its own canonical name: both decode from the one word of the two. -/
theorem canonical_canonical (i : Instr) : canonical (canonical i) = canonical i := by
  have h := decodeWordWith_encode .refuse (canonical i)
  rw [encode_canonical, decodeWordWith_encode] at h
  exact (Except.ok.inj h).symm

/-- Settles O3: the decoder answers the canonical name, which has the word of the instruction. -/
theorem decodeOfEncodeIsTheCanonicalName : Obligations.DecodeOfEncodeIsTheCanonicalName :=
  fun policy i => ⟨decodeWordWith_encode policy i, encode_canonical i, wellFormed_iff_canonical_eq i⟩

/-- Settles O2: a well-formed instruction is its own canonical name. -/
theorem decodeOfEncodeIsTheInstruction : Obligations.DecodeOfEncodeIsTheInstruction := by
  intro policy i hwf
  rw [decodeWordWith_encode, (wellFormed_iff_canonical_eq i).mp hwf]

end Sys2Proof

namespace Sys2Proof.Machine

/-! ### The meaning of a canonical name (R70 to R86, R161) -/

/-- A rotate left of a cleared carry is the shift of `lsl` (R75, R83). -/
theorem rlcByte_false (a : Byte) : rlcByte a false = a <<< 1 :=
  (BitVec.shiftLeft_eq_concat_of_lt (n := 1) (by decide)).symm

/-- A rotate right of a cleared carry is the shift of `lsr` (R76, R84). -/
theorem rrcByte_false (a : Byte) : rrcByte a false = a >>> 1 :=
  (BitVec.ushiftRight_eq_extractLsb'_of_lt (n := 1) (by decide)).symm

/-- Without a rotate there is one accumulator to read, whatever `OPR_A_SOURCE` says (R73). -/
theorem State.opr_keep (s : State) (u p r : Bool) (cy : CarryFn) (xfer : Xfer) :
    s.opr u p r .keep cy xfer =
      (((((if u then s.uartTx (s.a.getLsbD 0) else s).transfer xfer s.a).setA s.a).setC (carryFn cy s.c)).setPc
        (s.oprPc p r s.a)) := by
  have hsource : oprSource s.params.oprASource s.a s.a = s.a := by cases s.params.oprASource <;> rfl
  simp [State.opr, rotByte, rotCarry, hsource]

/-- The name of an `opr` combination means that combination. -/
theorem exec_nameOpr (u p r : Bool) (rot : Rot) (cy : CarryFn) (xfer : Xfer) (s : State) :
    exec (nameOpr u p r rot cy xfer) s = .next (s.opr u p r rot cy xfer) := by
  unfold nameOpr
  split
  -- `apc`, `tax`, `tay`, `retadd` read the accumulator that `OPR_A_SOURCE` selects; `lsl`, `lsr` are shifts.
  case h_3 | h_9 | h_10 | h_13 => rw [State.opr_keep]; rfl
  case h_11 => rw [exec, execLsl, ← rlcByte_false]; rfl
  case h_12 => rw [exec, execLsr, ← rrcByte_false]; rfl
  all_goals rfl

/-- Settles O23: the named words of `opr` by `exec_nameOpr`, the conditions of `br` each by its own rule. -/
theorem canonicalNameKeepsTheMeaning : Obligations.CanonicalNameKeepsTheMeaning := by
  intro i s
  cases i with
  | opr => exact exec_nameOpr _ _ _ _ _ _ s
  | br cond => cases cond <;> rfl
  | _ => rfl

end Sys2Proof.Machine
end

section
/-! PROOFS. What the decoder does with every word (spec R60, R62). The row of the encoding map that a word belongs to
is said once, by `wordRow`; the other round trip, the exact reserved classes and the other policy on bits 7:1 each
follow it row by row. -/

namespace Sys2Proof

open BitVec (extractLsb'_append_extractLsb'_eq_extractLsb' extractLsb'_eq_self)

/-! ### A field and its parts -/

/-- Two neighbouring fields hold the parts of `a` exactly when the field they make up holds `a`. -/
theorem extract_eq_iff {k start m l : Nat} (v : BitVec k) (a : BitVec (m + l)) :
    v.extractLsb' start (m + l) = a ↔
      v.extractLsb' (start + l) m = a.extractLsb' l m ∧ v.extractLsb' start l = a.extractLsb' 0 l := by
  rw [← extractLsb'_append_extractLsb'_eq_extractLsb' (x := v) rfl]
  constructor
  · rintro rfl
    simp [extract_append_high, extract_append_low]
  · rintro ⟨hm, hl⟩
    rw [hm, hl, extractLsb'_append_extractLsb'_eq_extractLsb' (Nat.zero_add l).symm, extractLsb'_eq_self]

/-! The same for the opcode fields of the map, whose parts are `w[15:14]`, `w[13:12]` and single bits. -/

theorem extract_12_4_iff (w : Word) (a : BitVec 4) :
    w.extractLsb' 12 4 = a ↔ w.extractLsb' 14 2 = a.extractLsb' 2 2 ∧ w.extractLsb' 12 2 = a.extractLsb' 0 2 :=
  extract_eq_iff (m := 2) (l := 2) w a

theorem extract_11_5_iff (w : Word) (a : BitVec 5) :
    w.extractLsb' 11 5 = a ↔ w.extractLsb' 14 2 = a.extractLsb' 3 2 ∧ w.extractLsb' 11 3 = a.extractLsb' 0 3 :=
  extract_eq_iff (m := 2) (l := 3) w a

theorem extract_11_3_iff (w : Word) (a : BitVec 3) :
    w.extractLsb' 11 3 = a ↔ w.extractLsb' 12 2 = a.extractLsb' 1 2 ∧ w.extractLsb' 11 1 = a.extractLsb' 0 1 :=
  extract_eq_iff (m := 2) (l := 1) w a

theorem extract_13_3_iff (w : Word) (a : BitVec 3) :
    w.extractLsb' 13 3 = a ↔ w.extractLsb' 14 2 = a.extractLsb' 1 2 ∧ w.extractLsb' 13 1 = a.extractLsb' 0 1 :=
  extract_eq_iff (m := 2) (l := 1) w a

/-- Bit 13, which tells the indexed forms from the others, is the high bit of `w[13:12]`. -/
theorem extract_13_1_eq {w : Word} {form : BitVec 2} (hform : w.extractLsb' 12 2 = form) :
    w.extractLsb' 13 1 = form.extractLsb' 1 1 :=
  ((extract_eq_iff (m := 1) (l := 1) w form).mp hform).1

theorem twoBits_cases : ∀ k : BitVec 2, k = 0b00#2 ∨ k = 0b01#2 ∨ k = 0b10#2 ∨ k = 0b11#2 := by
  decide

/-! ### The row of a word -/

theorem decodeRow_opr {w : Word} (hhi : w.extractLsb' 14 2 = 0b00#2) (hform : w.extractLsb' 12 2 = 0b00#2)
    (policy : UnusedBitsPolicy) : decodeRow policy w = decodeOpr w := by
  simp [decodeRow, jumpOpcode, callOpcode, extract_11_5_iff, extract_12_4_iff, hhi, hform]

theorem decodeRow_store {w : Word} (hhi : w.extractLsb' 14 2 = 0b00#2) (hform : w.extractLsb' 12 2 ≠ 0b00#2)
    (policy : UnusedBitsPolicy) : decodeRow policy w = decodeStore policy w := by
  simp [decodeRow, jumpOpcode, callOpcode, extract_11_5_iff, extract_12_4_iff, hhi, hform]

theorem decodeRow_acc {w : Word} (hhi : w.extractLsb' 14 2 = 0b01#2) (policy : UnusedBitsPolicy) :
    decodeRow policy w = decodeAcc policy w := by
  simp [decodeRow, jumpOpcode, callOpcode, extract_11_5_iff, extract_12_4_iff, hhi]

theorem decodeRow_skb {w : Word} (hhi : w.extractLsb' 14 2 = 0b10#2) (hform : w.extractLsb' 12 2 ≠ 0b00#2)
    (policy : UnusedBitsPolicy) : decodeRow policy w = decodeSkb policy w := by
  simp [decodeRow, jumpOpcode, callOpcode, extract_11_5_iff, extract_11_3_iff, extract_12_4_iff, hhi, hform]

theorem decodeRow_br {w : Word} (hhi : w.extractLsb' 14 2 = 0b11#2) (policy : UnusedBitsPolicy) :
    decodeRow policy w = .ok (.br (condField w) (w.extractLsb' 0 11)) := by
  simp [decodeRow, jumpOpcode, callOpcode, extract_11_5_iff, extract_12_4_iff, hhi]

theorem decodeRow_jump {w : Word} (hop : w.extractLsb' 11 5 = jumpOpcode) (policy : UnusedBitsPolicy) :
    decodeRow policy w = .ok (.jump (w.extractLsb' 0 11)) := by
  simp [decodeRow, hop]

theorem decodeRow_call {w : Word} (hop : w.extractLsb' 11 5 = callOpcode) (policy : UnusedBitsPolicy) :
    decodeRow policy w = .ok (.call (w.extractLsb' 0 11)) := by
  simp [decodeRow, hop, jumpOpcode, callOpcode]

theorem append_target (w : Word) : (w.extractLsb' 11 5 ++ w.extractLsb' 0 11 : Word) = w := by
  simp (disch := decide) only [extractLsb'_append_extractLsb'_eq_extractLsb', extractLsb'_eq_self]

theorem condBits_condField (w : Word) : condBits (condField w) = w.extractLsb' 11 3 := by
  unfold condField
  generalize w.extractLsb' 11 3 = k
  revert k
  decide

/-- A word of `br` is the word of its fields (R160). -/
theorem encode_br_fields {w : Word} (hhi : w.extractLsb' 14 2 = 0b11#2) :
    encode (.br (condField w) (w.extractLsb' 0 11)) = w := by
  simp (disch := decide) only [encode, encodeBr, condBits_condField, ← hhi,
    extractLsb'_append_extractLsb'_eq_extractLsb', extractLsb'_eq_self]

/-- Where the decoder takes a word, under either policy: to a group of rows, told by `w[15:14]` and `w[13:12]`, or at
once to the instruction of a row without reserved words (R60, R61). -/
inductive WordRow (w : Word) : Prop
  | opr (hhi : w.extractLsb' 14 2 = 0b00#2) (hform : w.extractLsb' 12 2 = 0b00#2)
      (hdec : ∀ policy, decodeRow policy w = decodeOpr w)
  | store (hhi : w.extractLsb' 14 2 = 0b00#2) (hform : w.extractLsb' 12 2 ≠ 0b00#2)
      (hdec : ∀ policy, decodeRow policy w = decodeStore policy w)
  | acc (hhi : w.extractLsb' 14 2 = 0b01#2) (hdec : ∀ policy, decodeRow policy w = decodeAcc policy w)
  | jumpOrCall (hhi : w.extractLsb' 14 2 = 0b10#2) (hform : w.extractLsb' 12 2 = 0b00#2)
      (i : Instr) (henc : encode i = w) (hdec : ∀ policy, decodeRow policy w = .ok i)
  | skb (hhi : w.extractLsb' 14 2 = 0b10#2) (hform : w.extractLsb' 12 2 ≠ 0b00#2)
      (hdec : ∀ policy, decodeRow policy w = decodeSkb policy w)
  | br (hhi : w.extractLsb' 14 2 = 0b11#2)
      (i : Instr) (henc : encode i = w) (hdec : ∀ policy, decodeRow policy w = .ok i)

/-- Every word is in one of the rows. -/
theorem wordRow (w : Word) : WordRow w := by
  have hbit : ∀ b : BitVec 1, b = 0#1 ∨ b = 1#1 := by decide
  obtain hhi | hhi | hhi | hhi := twoBits_cases (w.extractLsb' 14 2)
  · by_cases hform : w.extractLsb' 12 2 = 0b00#2
    · exact .opr hhi hform (decodeRow_opr hhi hform)
    · exact .store hhi hform (decodeRow_store hhi hform)
  · exact .acc hhi (decodeRow_acc hhi)
  · by_cases hform : w.extractLsb' 12 2 = 0b00#2
    · obtain hbit | hbit := hbit (w.extractLsb' 11 1)
      · have hop : w.extractLsb' 11 5 = jumpOpcode := by
          simp [extract_11_5_iff, extract_11_3_iff, jumpOpcode, hhi, hform, hbit]
        exact .jumpOrCall hhi hform _ (by rw [encode, ← hop, append_target]) (decodeRow_jump hop)
      · have hop : w.extractLsb' 11 5 = callOpcode := by
          simp [extract_11_5_iff, extract_11_3_iff, callOpcode, hhi, hform, hbit]
        exact .jumpOrCall hhi hform _ (by rw [encode, ← hop, append_target]) (decodeRow_call hop)
    · exact .skb hhi hform (decodeRow_skb hhi hform)
  · exact .br hhi _ (encode_br_fields hhi) (decodeRow_br hhi)

/-! ### From a row to the decoder -/

theorem decodeWordWith_congr {policy policy' : UnusedBitsPolicy} {w w' : Word}
    (h : decodeRow policy w = decodeRow policy' w') : decodeWordWith policy w = decodeWordWith policy' w' := by
  rw [decodeWordWith, h, decodeWordWith]

theorem decodeWordWith_ok {policy : UnusedBitsPolicy} {w : Word} {i : Instr} (h : decodeWordWith policy w = .ok i) :
    ∃ j, decodeRow policy w = .ok j ∧ canonical j = i := by
  cases hrow : decodeRow policy w with
  | ok j => exact ⟨j, rfl, by simpa [decodeWordWith, hrow] using h⟩
  | error r => simp [decodeWordWith, hrow] at h

theorem decodeWordWith_error_iff {policy : UnusedBitsPolicy} {w : Word} {r : Reserved} :
    decodeWordWith policy w = .error r ↔ decodeRow policy w = .error r := by
  cases hrow : decodeRow policy w <;> simp [decodeWordWith, hrow]

/-! ### The word of what was decoded, row by row (R60) -/

theorem ofBool_bitField (w : Word) (k : Nat) : BitVec.ofBool (bitField w k) = w.extractLsb' k 1 := by
  unfold bitField
  generalize w.extractLsb' k 1 = b
  revert b
  decide

theorem rotBits_of_rotField {w : Word} {rot : Rot} (h : rotField w = some rot) : rotBits rot = w.extractLsb' 4 2 := by
  unfold rotField at h
  generalize w.extractLsb' 4 2 = k at h ⊢
  revert k
  cases rot <;> decide

theorem cyBits_of_cyField {w : Word} {cy : CarryFn} (h : cyField w = some cy) : cyBits cy = w.extractLsb' 2 2 := by
  unfold cyField at h
  generalize w.extractLsb' 2 2 = k at h ⊢
  revert k
  cases cy <;> decide

theorem xferBits_of_xferField {w : Word} {xfer : Xfer} (h : xferField w = some xfer) :
    xferBits xfer = w.extractLsb' 0 2 := by
  unfold xferField at h
  generalize w.extractLsb' 0 2 = k at h ⊢
  revert k
  cases xfer <;> decide

theorem encode_of_decodeOpr {w : Word} {i : Instr} (hhi : w.extractLsb' 14 2 = 0b00#2)
    (hform : w.extractLsb' 12 2 = 0b00#2) (h : decodeOpr w = .ok i) : encode i = w := by
  unfold decodeOpr at h
  split at h
  case isFalse => cases h
  case isTrue hreserved =>
    have hhigh : w.extractLsb' 9 7 = 0b0000000#7 :=
      (extract_eq_iff (m := 4) (l := 3) w 0#7).mpr ⟨(extract_12_4_iff w 0#4).mpr ⟨hhi, hform⟩, hreserved⟩
    split at h
    case h_2 => cases h
    case h_1 rot cy xfer hrot hcy hxfer =>
      obtain rfl := Except.ok.inj h
      simp (disch := decide) only [encode, encodeOpr, ofBool_bitField, rotBits_of_rotField hrot,
        cyBits_of_cyField hcy, xferBits_of_xferField hxfer, ← hhigh,
        extractLsb'_append_extractLsb'_eq_extractLsb', extractLsb'_eq_self]

theorem append_bytes (w : Word) : (w.extractLsb' 8 8 ++ w.extractLsb' 0 8 : Word) = w := by
  simp (disch := decide) only [extractLsb'_append_extractLsb'_eq_extractLsb', extractLsb'_eq_self]

theorem append_lowByte {w : Word} {high : Byte} (hhigh : w.extractLsb' 8 8 = high) :
    (high ++ w.extractLsb' 0 8 : Word) = w := by
  rw [← hhigh, append_bytes]

/-- An indexed form with bits 7:1 zero has the word of its opcode byte and its `idx` bit (R53, R54). -/
theorem encode_of_decodeIndexed {w : Word} {high : Byte} {i : Instr} {mk : Idx → Instr}
    (hhigh : w.extractLsb' 8 8 = high) (hmk : ∀ idx, encode (mk idx) = high ++ idxByte idx)
    (h : decodeIndexed .refuse w mk = .ok i) : encode i = w := by
  unfold decodeIndexed at h
  split at h
  case isFalse => cases h
  case isTrue hadmitted =>
    obtain rfl := Except.ok.inj h
    have hunused : w.extractLsb' 1 7 = 0#7 := beq_iff_eq.mp hadmitted
    have hlow : idxByte (idxField w) = w.extractLsb' 0 8 := by
      refine ((extract_eq_iff (m := 7) (l := 1) w _).mpr ?_).symm
      rw [hunused, idxField, bitField]
      generalize w.extractLsb' 0 1 = b
      revert b
      decide
    rw [hmk, hlow, append_lowByte hhigh]

theorem highByte_of_store {w : Word} {hi form : BitVec 2} {bits : BitVec 4} (hhi : w.extractLsb' 14 2 = hi)
    (hform : w.extractLsb' 12 2 = form) (hbits : w.extractLsb' 8 4 = bits) {high : Byte}
    (hop : hi ++ form ++ bits = high) : w.extractLsb' 8 8 = high := by
  simp (disch := decide) only [← hop, ← hhi, ← hform, ← hbits, extractLsb'_append_extractLsb'_eq_extractLsb']

theorem encode_of_decodeStore {w : Word} {i : Instr} (hhi : w.extractLsb' 14 2 = 0b00#2)
    (hform : w.extractLsb' 12 2 ≠ 0b00#2) (h : decodeStore .refuse w = .ok i) : encode i = w := by
  unfold decodeStore at h
  split at h
  case isFalse => cases h
  case isTrue hbits =>
    obtain hf | hf | hf | hf := twoBits_cases (w.extractLsb' 12 2)
    · exact absurd hf hform
    · rw [if_pos hf] at h
      obtain rfl := Except.ok.inj h
      exact append_lowByte (highByte_of_store hhi hf hbits rfl)
    · exact encode_of_decodeIndexed (highByte_of_store hhi hf hbits rfl) (fun _ => rfl) (by simpa [hf] using h)
    · exact encode_of_decodeIndexed (highByte_of_store hhi hf hbits rfl) (fun _ => rfl) (by simpa [hf] using h)

/-! The words of the accumulator operations, with `oo` left as a field (R110). -/

theorem encode_accImm (oo : BitVec 2) (imm8 : Byte) : encode (accImm oo imm8) = 0b010000#6 ++ oo ++ imm8 := by
  obtain rfl | rfl | rfl | rfl := twoBits_cases oo <;> rfl

theorem encode_accAbs (oo : BitVec 2) (addr8 : Byte) : encode (accAbs oo addr8) = 0b010100#6 ++ oo ++ addr8 := by
  obtain rfl | rfl | rfl | rfl := twoBits_cases oo <;> rfl

theorem encode_accIdx (oo : BitVec 2) (idx : Idx) : encode (accIdx oo idx) = 0b011000#6 ++ oo ++ idxByte idx := by
  obtain rfl | rfl | rfl | rfl := twoBits_cases oo <;> rfl

theorem encode_accIdxPost (oo : BitVec 2) (idx : Idx) :
    encode (accIdxPost oo idx) = 0b011100#6 ++ oo ++ idxByte idx := by
  obtain rfl | rfl | rfl | rfl := twoBits_cases oo <;> rfl

theorem highByte_of_acc {w : Word} {hi form bits : BitVec 2} (hhi : w.extractLsb' 14 2 = hi)
    (hform : w.extractLsb' 12 2 = form) (hbits : w.extractLsb' 10 2 = bits) {opcode : BitVec 6}
    (hop : hi ++ form ++ bits = opcode) : w.extractLsb' 8 8 = opcode ++ w.extractLsb' 8 2 := by
  simp (disch := decide) only [← hop, ← hhi, ← hform, ← hbits, extractLsb'_append_extractLsb'_eq_extractLsb']

theorem encode_of_decodeAcc {w : Word} {i : Instr} (hhi : w.extractLsb' 14 2 = 0b01#2)
    (h : decodeAcc .refuse w = .ok i) : encode i = w := by
  unfold decodeAcc at h
  split at h
  case isFalse => cases h
  case isTrue hbits =>
    obtain hf | hf | hf | hf := twoBits_cases (w.extractLsb' 12 2)
    · simp only [hf, reduceIte] at h
      obtain rfl := Except.ok.inj h
      exact (encode_accImm _ _).trans (append_lowByte (highByte_of_acc hhi hf hbits rfl))
    · simp only [hf, reduceIte, show ¬ (0b01#2 = 0b00#2) by decide] at h
      obtain rfl := Except.ok.inj h
      exact (encode_accAbs _ _).trans (append_lowByte (highByte_of_acc hhi hf hbits rfl))
    · exact encode_of_decodeIndexed (highByte_of_acc hhi hf hbits rfl) (encode_accIdx _) (by simpa [hf] using h)
    · exact encode_of_decodeIndexed (highByte_of_acc hhi hf hbits rfl) (encode_accIdxPost _) (by simpa [hf] using h)

theorem highByte_of_skb {w : Word} {hi form : BitVec 2} (hhi : w.extractLsb' 14 2 = hi)
    (hform : w.extractLsb' 12 2 = form) {opcode : BitVec 4} (hop : hi ++ form = opcode) :
    w.extractLsb' 8 8 = opcode ++ BitVec.ofBool (bitField w 11) ++ w.extractLsb' 8 3 := by
  simp (disch := decide) only [← hop, ← hhi, ← hform, ofBool_bitField,
    extractLsb'_append_extractLsb'_eq_extractLsb']

theorem encode_of_decodeSkb {w : Word} {i : Instr} (hhi : w.extractLsb' 14 2 = 0b10#2)
    (hform : w.extractLsb' 12 2 ≠ 0b00#2) (h : decodeSkb .refuse w = .ok i) : encode i = w := by
  unfold decodeSkb at h
  obtain hf | hf | hf | hf := twoBits_cases (w.extractLsb' 12 2)
  · exact absurd hf hform
  · rw [if_pos hf] at h
    obtain rfl := Except.ok.inj h
    exact append_lowByte (highByte_of_skb hhi hf rfl)
  · exact encode_of_decodeIndexed (highByte_of_skb hhi hf rfl) (fun _ => rfl) (by simpa [hf] using h)
  · exact encode_of_decodeIndexed (highByte_of_skb hhi hf rfl) (fun _ => rfl) (by simpa [hf] using h)

/-- Under `refuse` the instruction of a row has the word it was decoded from. -/
theorem encode_of_decodeRow {w : Word} {i : Instr} (h : decodeRow .refuse w = .ok i) : encode i = w := by
  cases wordRow w with
  | opr hhi hform hdec => exact encode_of_decodeOpr hhi hform (hdec .refuse ▸ h)
  | store hhi hform hdec => exact encode_of_decodeStore hhi hform (hdec .refuse ▸ h)
  | acc hhi hdec => exact encode_of_decodeAcc hhi (hdec .refuse ▸ h)
  | skb hhi hform hdec => exact encode_of_decodeSkb hhi hform (hdec .refuse ▸ h)
  | jumpOrCall _ _ j henc hdec | br _ j henc hdec =>
    obtain rfl : j = i := Except.ok.inj ((hdec .refuse).symm.trans h)
    exact henc

/-- Settles O4: the name given to the instruction of the row keeps its word and is canonical. -/
theorem encodeOfDecodeIsTheWord : Obligations.EncodeOfDecodeIsTheWord := by
  intro w i h
  obtain ⟨j, hrow, rfl⟩ := decodeWordWith_ok h
  exact ⟨(encode_canonical j).trans (encode_of_decodeRow hrow),
    (wellFormed_iff_canonical_eq _).mpr (canonical_canonical j)⟩

/-! ### The reserved classes (R62; log 4, 5) -/

/-- The words of each class, the opcode bits checked first (log 4). -/
def Reserved.Holds : Reserved → Word → Prop
  | .oprReservedField, w => w.extractLsb' 12 4 = 0b0000#4 ∧ w.extractLsb' 9 3 ≠ 0b000#3
  | .oprUnlistedValue, w =>
    w.extractLsb' 12 4 = 0b0000#4 ∧ w.extractLsb' 9 3 = 0b000#3 ∧
      (w.extractLsb' 4 2 = 0b01#2 ∨ w.extractLsb' 2 2 = 0b01#2 ∨ w.extractLsb' 0 2 = 0b01#2)
  | .storeOpcodeBits, w =>
    (w.extractLsb' 12 4 = 0b0001#4 ∨ w.extractLsb' 12 4 = 0b0010#4 ∨ w.extractLsb' 12 4 = 0b0011#4) ∧
      w.extractLsb' 8 4 ≠ 0b0000#4
  | .accOpcodeBits, w => w.extractLsb' 14 2 = 0b01#2 ∧ w.extractLsb' 10 2 ≠ 0b00#2
  | .indexUnusedBits, w =>
    w.extractLsb' 1 7 ≠ 0b0000000#7 ∧
      ((w.extractLsb' 13 3 = 0b001#3 ∧ w.extractLsb' 8 4 = 0b0000#4) ∨
       (w.extractLsb' 13 3 = 0b011#3 ∧ w.extractLsb' 10 2 = 0b00#2) ∨
       w.extractLsb' 13 3 = 0b101#3)

theorem rotField_eq_none_iff (w : Word) : rotField w = none ↔ w.extractLsb' 4 2 = 0b01#2 := by
  unfold rotField
  generalize w.extractLsb' 4 2 = k
  revert k
  decide

theorem cyField_eq_none_iff (w : Word) : cyField w = none ↔ w.extractLsb' 2 2 = 0b01#2 := by
  unfold cyField
  generalize w.extractLsb' 2 2 = k
  revert k
  decide

theorem xferField_eq_none_iff (w : Word) : xferField w = none ↔ w.extractLsb' 0 2 = 0b01#2 := by
  unfold xferField
  generalize w.extractLsb' 0 2 = k
  revert k
  decide

theorem decodeOpr_error_iff (w : Word) (r : Reserved) :
    decodeOpr w = .error r ↔
      (.oprReservedField = r ∧ w.extractLsb' 9 3 ≠ 0b000#3) ∨
      (.oprUnlistedValue = r ∧ w.extractLsb' 9 3 = 0b000#3 ∧
        (w.extractLsb' 4 2 = 0b01#2 ∨ w.extractLsb' 2 2 = 0b01#2 ∨ w.extractLsb' 0 2 = 0b01#2)) := by
  rw [← rotField_eq_none_iff, ← cyField_eq_none_iff, ← xferField_eq_none_iff]
  by_cases hreserved : w.extractLsb' 9 3 = 0b000#3
  · cases hrot : rotField w <;> cases hcy : cyField w <;> cases hxfer : xferField w <;>
      simp [decodeOpr, hreserved, hrot, hcy, hxfer]
  · simp [decodeOpr, hreserved]

theorem decodeIndexed_error_iff (w : Word) (mk : Idx → Instr) (r : Reserved) :
    decodeIndexed .refuse w mk = .error r ↔ Reserved.indexUnusedBits = r ∧ w.extractLsb' 1 7 ≠ 0#7 := by
  by_cases hunused : w.extractLsb' 1 7 = 0#7 <;> simp [decodeIndexed, indexBitsAdmitted, hunused]

theorem decodeStore_error_iff {w : Word} (hform : w.extractLsb' 12 2 ≠ 0b00#2) (r : Reserved) :
    decodeStore .refuse w = .error r ↔
      (.storeOpcodeBits = r ∧ w.extractLsb' 8 4 ≠ 0b0000#4) ∨
      (.indexUnusedBits = r ∧ w.extractLsb' 1 7 ≠ 0#7 ∧ w.extractLsb' 13 1 = 1#1 ∧
        w.extractLsb' 8 4 = 0b0000#4) := by
  by_cases hbits : w.extractLsb' 8 4 = 0b0000#4
  · obtain hf | hf | hf | hf := twoBits_cases (w.extractLsb' 12 2)
    · exact absurd hf hform
    all_goals simp [decodeStore, decodeIndexed_error_iff, extract_13_1_eq hf, hbits, hf]
  · simp [decodeStore, hbits]

theorem decodeAcc_error_iff (w : Word) (r : Reserved) :
    decodeAcc .refuse w = .error r ↔
      (.accOpcodeBits = r ∧ w.extractLsb' 10 2 ≠ 0b00#2) ∨
      (.indexUnusedBits = r ∧ w.extractLsb' 1 7 ≠ 0#7 ∧ w.extractLsb' 13 1 = 1#1 ∧
        w.extractLsb' 10 2 = 0b00#2) := by
  by_cases hbits : w.extractLsb' 10 2 = 0b00#2
  · obtain hf | hf | hf | hf := twoBits_cases (w.extractLsb' 12 2)
    all_goals simp [decodeAcc, decodeIndexed_error_iff, extract_13_1_eq hf, hbits, hf]
  · simp [decodeAcc, hbits]

theorem decodeSkb_error_iff {w : Word} (hform : w.extractLsb' 12 2 ≠ 0b00#2) (r : Reserved) :
    decodeSkb .refuse w = .error r ↔
      Reserved.indexUnusedBits = r ∧ w.extractLsb' 1 7 ≠ 0#7 ∧ w.extractLsb' 13 1 = 1#1 := by
  obtain hf | hf | hf | hf := twoBits_cases (w.extractLsb' 12 2)
  · exact absurd hf hform
  all_goals simp [decodeSkb, decodeIndexed_error_iff, extract_13_1_eq hf, hf]

/-- A store row is one of the three that the class names. -/
theorem extract_12_4_of_store {w : Word} (hhi : w.extractLsb' 14 2 = 0b00#2) (hform : w.extractLsb' 12 2 ≠ 0b00#2) :
    w.extractLsb' 12 4 = 0b0001#4 ∨ w.extractLsb' 12 4 = 0b0010#4 ∨ w.extractLsb' 12 4 = 0b0011#4 := by
  simpa [extract_12_4_iff, hhi, hform] using twoBits_cases (w.extractLsb' 12 2)

/-- The decoder refuses a word under the name of a class exactly when the word is of the class. -/
theorem decodeWord_error_iff (w : Word) (r : Reserved) : decodeWord w = .error r ↔ r.Holds w := by
  refine decodeWordWith_error_iff.trans ?_
  change decodeRow .refuse w = .error r ↔ _
  cases wordRow w with
  | opr hhi hform hdec =>
    rw [hdec, decodeOpr_error_iff]
    cases r <;> simp [Reserved.Holds, extract_12_4_iff, extract_13_3_iff, extract_13_1_eq hform, hhi, hform]
  | store hhi hform hdec =>
    rw [hdec, decodeStore_error_iff hform]
    cases r with
    | storeOpcodeBits => simp [Reserved.Holds, extract_12_4_of_store hhi hform]
    | indexUnusedBits => simp [Reserved.Holds, extract_13_3_iff, hhi]
    | _ => simp [Reserved.Holds, extract_12_4_iff, hhi, hform]
  | acc hhi hdec =>
    rw [hdec, decodeAcc_error_iff]
    cases r with
    | indexUnusedBits => simp [Reserved.Holds, extract_13_3_iff, hhi]
    | _ => simp [Reserved.Holds, extract_12_4_iff, hhi]
  | skb hhi hform hdec =>
    rw [hdec, decodeSkb_error_iff hform]
    cases r with
    | indexUnusedBits => simp [Reserved.Holds, extract_13_3_iff, hhi]
    | _ => simp [Reserved.Holds, extract_12_4_iff, hhi]
  | jumpOrCall hhi hform i _ hdec =>
    rw [hdec]
    cases r <;> simp [Reserved.Holds, extract_12_4_iff, extract_13_3_iff, extract_13_1_eq hform, hhi]
  | br hhi i _ hdec =>
    rw [hdec]
    cases r <;> simp [Reserved.Holds, extract_12_4_iff, extract_13_3_iff, hhi]

/-- Settles O5, class by class. -/
theorem reservedClassesAreExact : Obligations.ReservedClassesAreExact :=
  fun w => ⟨decodeWord_error_iff w _, decodeWord_error_iff w _, decodeWord_error_iff w _,
    decodeWord_error_iff w _, decodeWord_error_iff w _⟩

/-! ### The other policy on bits 7:1 (R62; log 5) -/

/-- Clearing bits 7:1 leaves every field of the high byte. -/
theorem extract_clearUnused (w : Word) {start len : Nat} (hlow : 8 ≤ start) (hhigh : start + len ≤ 16) :
    (w &&& 0xFF01#16).extractLsb' start len = w.extractLsb' start len := by
  have hmask : ∀ k < 16, 8 ≤ k → (0xFF01#16).getLsbD k = true := by decide
  ext k hk
  simp [hmask (start + k) (by omega) (by omega)]

theorem bitField_clearUnused (w : Word) {k : Nat} (hlow : 8 ≤ k) (hhigh : k < 16) :
    bitField (w &&& 0xFF01#16) k = bitField w k := by
  rw [bitField, bitField, extract_clearUnused w hlow hhigh]

/-- An indexed form is decoded under `ignore` as under `refuse` with bits 7:1 cleared. -/
theorem decodeIndexed_clearUnused (w : Word) (mk : Idx → Instr) :
    decodeIndexed .refuse (w &&& 0xFF01#16) mk = decodeIndexed .ignore w mk := by
  have hunused : (w &&& 0xFF01#16).extractLsb' 1 7 = 0#7 := by
    rw [BitVec.extractLsb'_and]
    exact BitVec.and_zero
  have hidx : (w &&& 0xFF01#16).extractLsb' 0 1 = w.extractLsb' 0 1 := by
    rw [BitVec.extractLsb'_and]
    exact BitVec.and_allOnes
  simp [decodeIndexed, indexBitsAdmitted, idxField, bitField, hunused, hidx]

theorem getLsbD_13_eq {w : Word} {form : BitVec 2} (hform : w.extractLsb' 12 2 = form) :
    w.getLsbD 13 = form.getLsbD 1 := by
  simp [← hform]

/-- The forms whose bit 13 is set are the two indexed ones. -/
theorem form_of_indexed {w : Word} (h : w.getLsbD 13 = true) :
    w.extractLsb' 12 2 ≠ 0b00#2 ∧ w.extractLsb' 12 2 ≠ 0b01#2 := by
  constructor <;> exact fun hf => absurd (h.symm.trans (getLsbD_13_eq hf)) (by decide)

theorem form_of_not_indexed {w : Word} (h : ¬ w.getLsbD 13 = true) :
    w.extractLsb' 12 2 = 0b00#2 ∨ w.extractLsb' 12 2 = 0b01#2 := by
  obtain hf | hf | hf | hf := twoBits_cases (w.extractLsb' 12 2)
  · exact .inl hf
  · exact .inr hf
  all_goals exact absurd (getLsbD_13_eq hf) h

/-- In the rows with an `idx` field `ignore` reads bits 7:1 as zero. -/
theorem decodeRow_clearUnused {w : Word} (h : w.getLsbD 13 = true) (hbr : w.extractLsb' 14 2 ≠ 0b11#2) :
    decodeRow .ignore w = decodeRow .refuse (w &&& 0xFF01#16) := by
  obtain ⟨hopr, habs⟩ := form_of_indexed h
  have h14 : (w &&& 0xFF01#16).extractLsb' 14 2 = w.extractLsb' 14 2 :=
    extract_clearUnused w (by decide) (by decide)
  have h12 : (w &&& 0xFF01#16).extractLsb' 12 2 = w.extractLsb' 12 2 :=
    extract_clearUnused w (by decide) (by decide)
  cases wordRow w with
  | opr _ hform | jumpOrCall _ hform => exact absurd hform hopr
  | br hhi => exact absurd hhi hbr
  | store hhi hform hdec =>
    rw [hdec, decodeRow_store (h14.trans hhi) (h12.trans_ne hform)]
    simp [decodeStore, extract_clearUnused, decodeIndexed_clearUnused, habs]
  | acc hhi hdec =>
    rw [hdec, decodeRow_acc (h14.trans hhi)]
    simp [decodeAcc, extract_clearUnused, decodeIndexed_clearUnused, hopr, habs]
  | skb hhi hform hdec =>
    rw [hdec, decodeRow_skb (h14.trans hhi) (h12.trans_ne hform)]
    simp [decodeSkb, extract_clearUnused, bitField_clearUnused, decodeIndexed_clearUnused, habs]

/-- The rows without an `idx` field do not look at the policy. -/
theorem decodeRow_ignore_of_not_indexed {w : Word} (h : ¬ (w.getLsbD 13 = true ∧ w.extractLsb' 14 2 ≠ 0b11#2)) :
    decodeRow .ignore w = decodeRow .refuse w := by
  cases wordRow w with
  | opr _ _ hdec | jumpOrCall _ _ _ _ hdec | br _ _ _ hdec => rw [hdec, hdec]
  | store hhi hform hdec =>
    have hf := (form_of_not_indexed fun hbit => h ⟨hbit, by simp [hhi]⟩).resolve_left hform
    simp [hdec, decodeStore, hf]
  | acc hhi hdec =>
    obtain hf | hf := form_of_not_indexed fun hbit => h ⟨hbit, by simp [hhi]⟩ <;> simp [hdec, decodeAcc, hf]
  | skb hhi hform hdec =>
    have hf := (form_of_not_indexed fun hbit => h ⟨hbit, by simp [hhi]⟩).resolve_left hform
    simp [hdec, decodeSkb, hf]

/-- Settles O6: the words with bit 13 set that are not `br` are those of the indexed rows. -/
theorem ignorePolicyReadsUnusedBitsAsZero : Obligations.IgnorePolicyReadsUnusedBitsAsZero := by
  intro w
  split_ifs with h
  · exact decodeWordWith_congr (decodeRow_clearUnused h.1 h.2)
  · exact decodeWordWith_congr (decodeRow_ignore_of_not_indexed h)

/-- Settles O1, the decoder evaluated on each of the eleven words. -/
theorem decodesWordsOfEachFamily : Obligations.DecodesWordsOfEachFamily :=
  ⟨rfl, rfl, rfl, rfl, rfl, rfl, rfl, rfl, rfl, rfl, rfl⟩

end Sys2Proof

namespace Sys2Proof.Machine

/-! ### The step on a reserved word (R62, R181) -/

/-- Settles O8: the word fetched decodes to its class, which the step answers as a refusal. -/
theorem reservedWordIsRefused : Obligations.ReservedWordIsRefused := by
  refine ⟨fun policy => by cases policy; rfl, fun s r hfetch hdec => ?_⟩
  have hdecoded : s.decoded = .error r := hdec
  simp [step, hfetch, hdecoded, execDecoded]

/-! ### Branch targets (R56) -/

/-- Settles O44: a target is twice its field, so the field of an even address is its half. -/
theorem branchTargetsAreTheEvenCodeAddresses : Obligations.BranchTargetsAreTheEvenCodeAddresses := by
  refine ⟨fun t => ⟨branchTarget_toNat t, branchTarget_even t⟩, fun addr heven => ?_⟩
  rw [evenAddr_iff] at heven
  have htarget (t : BitVec 11) : branchTarget t = addr ↔ t.toNat = addr.toNat / 2 := by
    rw [← BitVec.toNat_inj, branchTarget_toNat]
    omega
  refine ⟨BitVec.ofNat 11 (addr.toNat / 2), (htarget _).mpr ?_, fun t ht => ?_⟩
  · rw [BitVec.toNat_ofNat, Nat.mod_eq_of_lt (by omega)]
  · rw [← (htarget t).mp ht, BitVec.ofNat_toNat, BitVec.setWidth_eq]

end Sys2Proof.Machine
end

section
/-! PROOFS. `opr` and its named words (spec R70 to R87). The functions of the word are first read as numbers, each
once; the whole of `opr` is then one equation, `exec_opr`, and a named word is the `opr` of its functions by
`exec_nameOpr`. What repeated execution leaves (R75, R76, R86) is given as a chain of states: `execTimes_of_chain`. -/

namespace Sys2Proof.Machine

/-! ### The functions of `opr` in numbers -/

/-- Two bit vectors put together: the high part counts the low part's whole range. -/
theorem toNat_append_eq_add {m k : Nat} (high : BitVec m) (low : BitVec k) :
    (high ++ low).toNat = 2 ^ k * high.toNat + low.toNat := by
  rw [BitVec.toNat_append, ← Nat.shiftLeft_add_eq_or_of_lt low.isLt, Nat.shiftLeft_eq, Nat.mul_comm]

theorem carryFn_eq_ite (cy : CarryFn) (c : Bool) :
    carryFn cy c = if cy = .clc then false else if cy = .sec then true else c := by
  cases cy <;> rfl

theorem oprSource_eq_ite (source : OprASource) (start rotated : Byte) :
    oprSource source start rotated = if source = .start then start else rotated := by
  cases source <;> rfl

theorem rlcByte_eq_ofNat (a : Byte) (c : Bool) : rlcByte a c = BitVec.ofNat 8 (2 * a.toNat + c.toNat) := by
  apply BitVec.eq_of_toNat_eq
  have hc := c.toNat_lt
  refine (toNat_append_eq_add (a.extractLsb' 0 7) (BitVec.ofBool c)).trans ?_
  simp
  omega

theorem rrcByte_eq_ofNat (a : Byte) (c : Bool) : rrcByte a c = BitVec.ofNat 8 (a.toNat / 2 + 128 * c.toNat) := by
  apply BitVec.eq_of_toNat_eq
  have hc := c.toNat_lt
  refine (toNat_append_eq_add (BitVec.ofBool c) (a.extractLsb' 1 7)).trans ?_
  simp [Nat.shiftRight_eq_div_pow]
  omega

theorem rlcCarry_eq_decide (a : Byte) : rlcCarry a = decide (128 ≤ a.toNat) :=
  (BitVec.msb_eq_getLsbD_last a).symm.trans (BitVec.msb_eq_decide a)

theorem rrcCarry_eq_decide (a : Byte) : rrcCarry a = decide (a.toNat % 2 = 1) :=
  Nat.testBit_zero a.toNat

theorem tayWord_eq_ofNat (a : Byte) (y : Word) : tayWord a y = BitVec.ofNat 16 (256 * a.toNat + y.toNat / 256) := by
  apply BitVec.eq_of_toNat_eq
  refine (toNat_append_eq_add a (y.extractLsb' 8 8)).trans ?_
  simp [Nat.shiftRight_eq_div_pow]
  omega

theorem State.nextPc_eq_ofNat (s : State) : s.nextPc = BitVec.ofNat 12 (s.pc.toNat + 2) := by
  simp [State.nextPc, BitVec.ofNat_add]

theorem skipWords_ofNat (n : Nat) (count : Byte) :
    skipWords (BitVec.ofNat 12 n) count = BitVec.ofNat 12 (n + 2 * count.toNat) := by
  apply BitVec.eq_of_toNat_eq
  simp [skipWords, BitVec.toNat_add, BitVec.toNat_mul]

theorem State.oprPc_eq_ofNat (s : State) (apc ret : Bool) (v : Byte) :
    s.oprPc apc ret v = BitVec.ofNat 12
      ((if ret then s.ra.toNat else s.pc.toNat + 2) + (if apc then 2 * v.toNat else 0)) := by
  have hbase : (if ret then s.ra else s.nextPc) =
      BitVec.ofNat 12 (if ret then s.ra.toNat else s.pc.toNat + 2) := by
    cases ret <;> simp [State.nextPc_eq_ofNat]
  cases apc <;> simp [State.oprPc, hbase, skipWords_ofNat]

/-- An address taken modulo 4096 beforehand (R12). -/
theorem ofNat_mod_4096 (n : Nat) : BitVec.ofNat 12 (n % 4096) = BitVec.ofNat 12 n := by
  simp [← BitVec.toNat_inj]

/-! ### The whole of `opr` -/

/-- Everything `opr` does (R70, R73), with `v` the accumulator that `tax`, `tay` and `apc` read. -/
theorem exec_opr (s : State) (u p r : Bool) (rot : Rot) (cy : CarryFn) (xfer : Xfer) {v : Byte}
    (hv : v = oprSource s.params.oprASource s.a (rotByte rot s.a (carryFn cy s.c))) :
    exec (.opr u p r rot cy xfer) s = .next { s with
      uartOut := if u then s.uartOut ++ [s.a.getLsbD 0] else s.uartOut
      a := rotByte rot s.a (carryFn cy s.c)
      c := rotCarry rot s.a (carryFn cy s.c)
      x := if xfer = .tax then v else s.x
      y := if xfer = .tay then tayWord v s.y else s.y
      pc := s.oprPc p r v } := by
  subst hv
  cases u <;> cases xfer <;> rfl

/-- The carry function acts first (R73): it may as well have been executed before the rest of the word. -/
theorem exec_opr_carryFn (u p r : Bool) (rot : Rot) (cy : CarryFn) (xfer : Xfer) (s : State) :
    exec (.opr u p r rot cy xfer) s = exec (.opr u p r rot .keep xfer) { s with c := carryFn cy s.c } :=
  (exec_opr s u p r rot cy xfer rfl).trans
    (exec_opr { s with c := carryFn cy s.c } u p r rot .keep xfer rfl).symm

/-- Settles O24: the word by the decoder's round trip, the meaning by `exec_opr` with each function in numbers. -/
theorem oprCombinesItsFunctions : Obligations.OprCombinesItsFunctions := by
  intro u p r rot cy xfer s
  refine ⟨decodeWordWith_encodeOpr _ u p r rot cy xfer, carryFn cy s.c, rotByte rot s.a (carryFn cy s.c), _,
    carryFn_eq_ite cy s.c, ?_, rfl, ?_⟩
  · cases rot with
    | keep => simp [rotByte]
    | rlc => exact rlcByte_eq_ofNat _ _
    | rrc => exact rrcByte_eq_ofNat _ _
  · rw [← tayWord_eq_ofNat, ← State.oprPc_eq_ofNat, ← rlcCarry_eq_decide, ← rrcCarry_eq_decide]
    refine (exec_opr s u p r rot cy xfer (oprSource_eq_ite _ _ _).symm).trans ?_
    cases rot <;> rfl

/-! ### The named words -/

/-- Settles O25: `nop` only advances, to the next address, here taken as a number. -/
theorem nopAdvancesThePcAlone : Obligations.NopAdvancesThePcAlone := by
  refine ⟨rfl, rfl, fun s => ?_⟩
  rw [ofNat_mod_4096, ← State.nextPc_eq_ofNat]
  rfl

/-- Settles O26: the rest of the word does not look at the output. -/
theorem utxSendsBitZeroBeforeAnyRotate : Obligations.UtxSendsBitZeroBeforeAnyRotate :=
  ⟨rfl, fun _ => rfl, fun p r rot cy xfer s => (exec_opr s true p r rot cy xfer rfl).trans
    (exec_opr { s with uartOut := s.uartOut ++ [s.a.getLsbD 0] } false p r rot cy xfer rfl).symm⟩

/-- Settles O27: the carry function of `clc` answers false. -/
theorem clcClearsCarryBeforeAnyRotate : Obligations.ClcClearsCarryBeforeAnyRotate :=
  ⟨rfl, fun _ => rfl, fun u p r rot => exec_opr_carryFn u p r rot .clc⟩

/-- Settles O28: the carry function of `sec` answers true. -/
theorem secSetsCarryBeforeAnyRotate : Obligations.SecSetsCarryBeforeAnyRotate :=
  ⟨rfl, fun _ => rfl, fun u p r rot => exec_opr_carryFn u p r rot .sec⟩

/-- Settles O29: the bits of the two rules, in numbers. -/
theorem rotatesGoThroughTheCarry : Obligations.RotatesGoThroughTheCarry := by
  refine ⟨rfl, rfl, fun s => ?_, fun s => ?_⟩
  · rw [← rlcByte_eq_ofNat, ← rlcCarry_eq_decide]
    rfl
  · rw [← rrcByte_eq_ofNat, ← rrcCarry_eq_decide]
    rfl

/-- Settles O31: the shift is the rotate left of a cleared carry. -/
theorem lslDoublesTheAccumulator : Obligations.LslDoublesTheAccumulator := by
  refine ⟨rfl, rfl, fun s => ⟨?_, (exec_nameOpr false false false .rlc .clc .keep s).symm⟩⟩
  have ha : BitVec.ofNat 8 (2 * s.a.toNat) = s.a <<< 1 :=
    (rlcByte_eq_ofNat s.a false).symm.trans (rlcByte_false s.a)
  rw [ha]
  rfl

/-- Settles O32: the shift is the rotate right of a cleared carry. -/
theorem lsrHalvesTheAccumulator : Obligations.LsrHalvesTheAccumulator := by
  refine ⟨rfl, rfl, fun s => ⟨?_, (exec_nameOpr false false false .rrc .clc .keep s).symm⟩⟩
  have ha : BitVec.ofNat 8 (s.a.toNat / 2) = s.a >>> 1 :=
    (rrcByte_eq_ofNat s.a false).symm.trans (rrcByte_false s.a)
  rw [ha]
  rfl

/-- Settles O34: `opr` with `tax` and without differ in `x` alone. -/
theorem taxCopiesTheAccumulator : Obligations.TaxCopiesTheAccumulator :=
  ⟨rfl, fun _ => rfl, fun u p r rot cy s => ⟨_, exec_opr s u p r rot cy .keep (oprSource_eq_ite _ _ _).symm,
    exec_opr s u p r rot cy .tax (oprSource_eq_ite _ _ _).symm⟩⟩

/-- Two `tay` in a row load all of `y` (R82). -/
theorem tayWord_tayWord (hi lo : Byte) (y : Word) : tayWord hi (tayWord lo y) = hi ++ lo := by
  simp [tayWord]

/-- Settles O35: the three parts are `tayWord` of any bytes, of those of the example, and of its own result. -/
theorem tayShiftsTheAccumulatorIntoY : Obligations.TayShiftsTheAccumulatorIntoY := by
  refine ⟨rfl, fun _ => rfl, fun s => ?_, fun s t lo hi h => ?_⟩
  · have hexample : tayWord 0x78#8 0x1234#16 = 0x7812#16 := by decide
    rw [← hexample]
    rfl
  · obtain rfl := Host.Outcome.next.inj h
    have hpc : s.pc + 2#12 + 2#12 = s.pc + 4#12 := BitVec.add_assoc _ _ _
    rw [← tayWord_tayWord hi lo s.y, ← hpc]
    rfl

/-- Settles O36: the base of the skip, taken as a number, is the next address for `apc` and `ra` for `retadd`. -/
theorem retApcRetaddSetThePc : Obligations.RetApcRetaddSetThePc := by
  refine ⟨rfl, rfl, rfl, fun s => ⟨rfl, ?_, ?_⟩⟩
  · rw [ofNat_mod_4096, ← skipWords_ofNat, ← State.nextPc_eq_ofNat]
    rfl
  · rw [ofNat_mod_4096, ← skipWords_ofNat, BitVec.ofNat_toNat, BitVec.setWidth_eq]
    rfl

/-! ### Repeated execution -/

/-- A chain of states, each the next of the one before under `i`, is what repeated execution of `i` runs through. -/
theorem execTimes_of_chain {i : Instr} {chain : Nat → State}
    (hchain : ∀ n, exec i (chain n) = .next (chain (n + 1))) (n : Nat) :
    execTimes i n (chain 0) = .next (chain n) := by
  induction n generalizing chain with
  | zero => rfl
  | succ n ih =>
    rw [execTimes, hchain 0]
    exact ih fun n => hchain (n + 1)

/-- The address `n` instructions on. -/
def wordsOn (pc : CodeAddr) (n : Nat) : CodeAddr := pc + BitVec.ofNat 12 (2 * n)

theorem wordsOn_zero (pc : CodeAddr) : wordsOn pc 0 = pc := BitVec.add_zero pc

theorem wordsOn_succ (pc : CodeAddr) (n : Nat) : wordsOn pc (n + 1) = wordsOn pc n + 2#12 := by
  rw [wordsOn, wordsOn, BitVec.add_assoc, BitVec.ofNat_add_ofNat, Nat.mul_succ]

/-! ### The bits of a rotated byte (R75, R76) -/

theorem getElem_rlcByte (a : Byte) (c : Bool) {i : Nat} (hi : i < 8) :
    (rlcByte a c)[i] = if i = 0 then c else a.getLsbD (i - 1) := by
  refine (BitVec.getElem_append (x := a.extractLsb' 0 7) (y := BitVec.ofBool c) hi).trans ?_
  cases i <;> simp

theorem getElem_rrcByte (a : Byte) (c : Bool) {i : Nat} (hi : i < 8) :
    (rrcByte a c)[i] = if i = 7 then c else a.getLsbD (i + 1) := by
  refine (BitVec.getElem_append (x := BitVec.ofBool c) (y := a.extractLsb' 1 7) hi).trans ?_
  obtain hlow | rfl : i < 7 ∨ i = 7 := by omega
  · simp [hlow, hlow.ne, Nat.add_comm]
  · simp

/-! ### Rotates in a row: the ring of carry and accumulator (R75, R76) -/

theorem rotateLeft_rotateLeft {w : Nat} (v : BitVec w) (m n : Nat) :
    (v.rotateLeft m).rotateLeft n = v.rotateLeft (m + n) := by
  apply BitVec.eq_of_getMsbD_eq
  intro i hi
  simp [BitVec.getMsbD_rotateLeft, hi, Nat.mod_lt _ (Nat.zero_lt_of_lt hi), Nat.add_assoc]

/-- A rotation by a whole number of turns. -/
theorem rotateLeft_of_dvd {w n : Nat} (v : BitVec w) (h : w ∣ n) : v.rotateLeft n = v := by
  obtain ⟨q, rfl⟩ := h
  apply BitVec.eq_of_getMsbD_eq
  intro i hi
  simp [BitVec.getMsbD_rotateLeft, hi, Nat.mod_eq_of_lt]

/-- The nine bits that the rotates turn: the carry above the accumulator. -/
def State.ring (s : State) : BitVec 9 := BitVec.cons s.c s.a

/-- `s` with other bits in the ring. -/
def State.withRing (s : State) (v : BitVec 9) : State := (s.setA (v.setWidth 8)).setC v.msb

theorem State.withRing_ring (s : State) : s.withRing s.ring = s := by
  simp [State.withRing, State.ring, State.setA, State.setC]

theorem State.ring_withRing (s : State) (v : BitVec 9) : (s.withRing v).ring = v := BitVec.cons_msb_setWidth v

/-- `n` rotates of the ring by `k` places to the left each, and `n` instructions on. -/
def State.afterRotates (s : State) (k n : Nat) : State :=
  (s.withRing (s.ring.rotateLeft (n * k))).setPc (wordsOn s.pc n)

theorem State.afterRotates_zero (s : State) (k : Nat) : s.afterRotates k 0 = s := by
  have hring : s.ring.rotateLeft (0 * k) = s.ring := rotateLeft_of_dvd _ (by simp)
  rw [State.afterRotates, hring, State.withRing_ring, wordsOn_zero]
  rfl

/-- `rlc` turns the ring by one place (R75). -/
theorem exec_rlc (s : State) : exec .rlc s = .next (s.withRing (s.ring.rotateLeft 1)).advance := by
  have hbyte : rlcByte s.a s.c = (s.ring.rotateLeft 1).setWidth 8 := by
    ext i hi
    cases i with
    | zero => simp [getElem_rlcByte, State.ring, BitVec.getElem_cons]
    | succ i =>
      have hlow : i < 8 := Nat.lt_of_succ_lt hi
      simp [getElem_rlcByte, State.ring, BitVec.getElem_cons, hlow, hlow.ne, Nat.lt_succ_of_lt hi]
  have hcarry : rlcCarry s.a = (s.ring.rotateLeft 1).msb := by
    simp [State.ring, rlcCarry, BitVec.msb_rotateLeft, BitVec.getMsbD_eq_getLsbD, BitVec.getElem_cons]
  rw [exec, execRlc, hbyte, hcarry]
  rfl

/-- `rrc` turns the ring by one place to the right, which is eight of nine to the left (R76). -/
theorem exec_rrc (s : State) : exec .rrc s = .next (s.withRing (s.ring.rotateLeft 8)).advance := by
  have hbyte : rrcByte s.a s.c = (s.ring.rotateLeft 8).setWidth 8 := by
    ext i hi
    simp [getElem_rrcByte, State.ring, BitVec.getLsbD_cons, hi, Nat.add_comm 1]
  have hcarry : rrcCarry s.a = (s.ring.rotateLeft 8).msb := by
    simp [State.ring, rrcCarry, BitVec.msb_rotateLeft, BitVec.getMsbD_eq_getLsbD, BitVec.getElem_cons]
  rw [exec, execRrc, hbyte, hcarry]
  rfl

theorem execTimes_rotate {i : Instr} {k : Nat}
    (hexec : ∀ s, exec i s = .next (s.withRing (s.ring.rotateLeft k)).advance) (n : Nat) (s : State) :
    execTimes i n s = .next (s.afterRotates k n) := by
  have hchain (n : Nat) : exec i (s.afterRotates k n) = .next (s.afterRotates k (n + 1)) := by
    have hring : (s.afterRotates k n).ring = s.ring.rotateLeft (n * k) := State.ring_withRing s _
    rw [hexec, hring, rotateLeft_rotateLeft, State.afterRotates, State.afterRotates, Nat.succ_mul, wordsOn_succ]
    rfl
  simpa only [State.afterRotates_zero] using execTimes_of_chain hchain n

/-- Settles O30: nine turns by `k` places bring each of the nine bits back. -/
theorem nineRotatesRestoreAccumulatorAndCarry : Obligations.NineRotatesRestoreAccumulatorAndCarry := by
  intro s
  have hnine (k : Nat) : s.afterRotates k 9 = { s with pc := s.pc + 18#12 } := by
    have hring : s.ring.rotateLeft (9 * k) = s.ring := rotateLeft_of_dvd _ (Nat.dvd_mul_right 9 k)
    rw [State.afterRotates, hring, State.withRing_ring]
    rfl
  exact ⟨(execTimes_rotate exec_rlc 9 s).trans (congrArg _ (hnine 1)),
    (execTimes_rotate exec_rrc 9 s).trans (congrArg _ (hnine 8))⟩

/-! ### The protocol of `uarttxr` (R86) -/

/-- The accumulator after `n` shifts to the right with a one coming in at the top. -/
def shiftedByOnes (a : Byte) (n : Nat) : Byte := ~~~(~~~a >>> n)

theorem rrcByte_true (a : Byte) : rrcByte a true = ~~~(~~~a >>> 1) := by
  ext i hi
  obtain hlow | rfl : i < 7 ∨ i = 7 := by omega
  · simp [getElem_rrcByte, hlow, hlow.ne, Nat.add_comm 1]
  · simp [getElem_rrcByte]

theorem shiftedByOnes_succ (a : Byte) (n : Nat) :
    shiftedByOnes a (n + 1) = rrcByte (shiftedByOnes a n) true := by
  simp [rrcByte_true, shiftedByOnes, BitVec.shiftRight_add]

/-- The bits that leave the accumulator at the bottom in `n` such shifts, the first one first. -/
def bitsShiftedOut (a : Byte) (n : Nat) : List Bool :=
  (List.range n).map fun k => (shiftedByOnes a k).getLsbD 0

theorem bitsShiftedOut_succ (a : Byte) (n : Nat) :
    bitsShiftedOut a (n + 1) = bitsShiftedOut a n ++ [(shiftedByOnes a n).getLsbD 0] := by
  simp [bitsShiftedOut, List.range_succ]

/-- `s` after `n` executions of `uarttxr`: the last bit sent is in the carry too. -/
def State.afterUarttxrs (s : State) (n : Nat) : State :=
  { s with
    uartOut := s.uartOut ++ bitsShiftedOut s.a n
    a := shiftedByOnes s.a n
    c := (bitsShiftedOut s.a n).getLastD s.c
    pc := wordsOn s.pc n }

theorem execTimes_uarttxr (n : Nat) (s : State) : execTimes .uarttxr n s = .next (s.afterUarttxrs n) := by
  have hzero : s.afterUarttxrs 0 = s := by
    simp [State.afterUarttxrs, bitsShiftedOut, shiftedByOnes, wordsOn_zero]
  have hchain (n : Nat) : exec .uarttxr (s.afterUarttxrs n) = .next (s.afterUarttxrs (n + 1)) := by
    rw [State.afterUarttxrs, State.afterUarttxrs, bitsShiftedOut_succ, shiftedByOnes_succ, wordsOn_succ,
      ← List.append_assoc, List.getLastD_concat]
    rfl
  simpa only [hzero] using execTimes_of_chain hchain n

/-- Nine shifts send the byte, least significant bit first, and the first of the ones. -/
theorem bitsShiftedOut_nine (b : Byte) :
    bitsShiftedOut b 9 = [b.getLsbD 0, b.getLsbD 1, b.getLsbD 2, b.getLsbD 3, b.getLsbD 4, b.getLsbD 5,
      b.getLsbD 6, b.getLsbD 7, true] := by
  simp [bitsShiftedOut, List.range_succ, shiftedByOnes]

/-- Settles O33: the meaning is the rotate right of a set carry, the protocol nine shifts after the start bit. -/
theorem uarttxrSendsTheByteAndAStopBit : Obligations.UarttxrSendsTheByteAndAStopBit := by
  refine ⟨rfl, rfl, fun s => ⟨?_, (exec_nameOpr true false false .rrc .sec .keep s).symm⟩, fun s first b => ?_⟩
  · have ha : BitVec.ofNat 8 (128 + s.a.toNat / 2) = rrcByte s.a true := by
      rw [rrcByte_eq_ofNat, Nat.add_comm]
      rfl
    rw [ha]
    rfl
  · have hstart : (first &&& 0xFE#8).getLsbD 0 = false := by simp
    have hstop : shiftedByOnes b 9 = 0xFF#8 := by
      rw [shiftedByOnes, BitVec.ushiftRight_eq_zero (by decide)]
      rfl
    have hpc : wordsOn (s.pc + 2#12 + 2#12) 9 = s.pc + 22#12 := by simp [wordsOn, BitVec.add_assoc]
    refine ⟨{ s with
        a := rrcByte (first &&& 0xFE#8) true, c := false, pc := s.pc + 2#12, uartOut := s.uartOut ++ [false] },
      { s with a := b, c := false, pc := s.pc + 2#12 + 2#12, uartOut := s.uartOut ++ [false] }, ?_, rfl, ?_⟩
    · rw [← hstart]
      rfl
    · rw [execTimes_uarttxr, State.afterUarttxrs, bitsShiftedOut_nine, hstop, hpc, List.append_assoc]
      rfl

end Sys2Proof.Machine
end

section
/-! PROOFS. The forms of `store` (spec R100 to R103): their words by the decoder's round trip, their meaning from one
equation over the operand, `State.execStore_eq`. -/

namespace Sys2Proof

/-- An operand byte or-ed into the opcode byte of its form is the encoding of that form, which decodes back to it. -/
theorem decodeWord_opcode_or_byte {i : Instr} {high v : Byte} (hcanonical : canonical i = i)
    (hencode : encode i = high ++ v) : decodeWord ((high ++ 0#8 : Word) ||| v.setWidth 16) = .ok i := by
  rw [opcode_or_byte, ← hencode]
  exact (decodeWordWith_encode _ i).trans (congrArg _ hcanonical)

end Sys2Proof

namespace Sys2Proof.Machine

/-- Everything `store` does at a writable address `n` (R100): the byte, then the postincrement, then the pc. -/
theorem State.execStore_eq {s : State} {o : MemOperand} {n : Nat} (haddr : (s.ea o).toNat = n)
    (hwritable : s.writable (s.ea o) = true) :
    s.execStore o = .next (State.afterAccess { s with mem := s.mem.write n s.a } o).advance := by
  subst haddr
  exact State.ifWritable_next.mpr ⟨hwritable, rfl⟩

/-- Settles O37: each form is `State.execStore_eq` at its operand, with the address as a number. -/
theorem storeForms : Obligations.StoreForms := by
  refine ⟨fun addr8 => decodeWord_opcode_or_byte (high := 0x10#8) rfl rfl, rfl, rfl, rfl, rfl, fun s => ?_⟩
  refine ⟨fun addr8 => ?abs, ?idxX, ?idxY, ?idxPostX, ?idxPostY, fun hmem addr => Memory.read_write hmem addr.toNat s.a⟩
  case abs => exact State.execStore_eq (o := .abs addr8) (eaAbs_toNat addr8)
  case idxX => exact State.execStore_eq (o := .idx .x) s.eaIdx_x_toNat
  case idxY => exact State.execStore_eq (o := .idx .y) rfl
  case idxPostX => exact State.execStore_eq (o := .idxPost .x) s.eaIdx_x_toNat
  case idxPostY => exact State.execStore_eq (o := .idxPost .y) rfl

end Sys2Proof.Machine
end

section
/-! PROOFS. `load`, `and`, `xor`, `adc` (spec R110 to R131). The memory forms of the four operations are said once,
for any operation, by `State.execAccMem_forms`; the sum of `adc` is read as nine bits, for its forms, and as a number,
for subtraction and for addition across bytes. -/

namespace Sys2Proof.Machine

/-! ### The operations (R111, R115, R120) -/

theorem State.loadByte_eq (s : State) (m : Byte) : s.loadByte m = { s with a := m } := rfl

theorem State.andByte_eq (s : State) (m : Byte) : s.andByte m = { s with a := s.a &&& m } := rfl

theorem State.xorByte_eq (s : State) (m : Byte) : s.xorByte m = { s with a := s.a ^^^ m } := rfl

/-! ### The memory forms of an operation (R110) -/

/-- A memory form at an address `n` that may be read: the operation on the byte there, then the postincrement, then
the pc. -/
theorem State.execAccMem_eq {s : State} {op : State → Byte → State} {result : Byte → State} {o : MemOperand}
    {n : Nat} (hop : ∀ m, op s m = result m) (haddr : (s.ea o).toNat = n)
    (hreadable : s.readable (s.ea o) = true) :
    s.execAccMem op o = .next ((result (s.mem.read n)).afterAccess o).advance := by
  subst haddr
  rw [← hop]
  exact State.ifReadable_next.mpr ⟨hreadable, rfl⟩

/-- The memory forms of an operation that leaves `result m` for the operand `m`: absolute, and indexed without and
with postincrement by either register (R36 to R38). -/
theorem State.execAccMem_forms {s : State} {op : State → Byte → State} {result : Byte → State}
    (hop : ∀ m, op s m = result m) :
    (∀ addr8 : Byte, s.readable (addr8.setWidth 16) = true →
      s.execAccMem op (.abs addr8) = .next (result (s.mem.read addr8.toNat)).advance) ∧
    (s.readable (s.x.setWidth 16) = true →
      s.execAccMem op (.idx .x) = .next (result (s.mem.read s.x.toNat)).advance) ∧
    (s.readable s.y = true → s.execAccMem op (.idx .y) = .next (result (s.mem.read s.y.toNat)).advance) ∧
    (s.readable (s.x.setWidth 16) = true →
      s.execAccMem op (.idxPost .x) = .next ((result (s.mem.read s.x.toNat)).postInc .x).advance) ∧
    (s.readable s.y = true →
      s.execAccMem op (.idxPost .y) = .next ((result (s.mem.read s.y.toNat)).postInc .y).advance) :=
  ⟨fun addr8 => State.execAccMem_eq (o := .abs addr8) hop (eaAbs_toNat addr8),
    State.execAccMem_eq (o := .idx .x) hop s.eaIdx_x_toNat, State.execAccMem_eq (o := .idx .y) hop rfl,
    State.execAccMem_eq (o := .idxPost .x) hop s.eaIdx_x_toNat, State.execAccMem_eq (o := .idxPost .y) hop rfl⟩

/-! ### `load`, `and`, `xor` -/

/-- Settles O38: the words by the decoder's round trip, the memory forms by `State.execAccMem_forms`. -/
theorem loadForms : Obligations.LoadForms :=
  ⟨fun _ => decodeWord_opcode_or_byte (high := 0x40#8) rfl rfl,
    fun _ => decodeWord_opcode_or_byte (high := 0x50#8) rfl rfl, rfl, rfl, rfl, rfl,
    fun s => ⟨fun _ => rfl, State.execAccMem_forms s.loadByte_eq⟩⟩

/-- Settles O39: the words by the decoder's round trip, the memory forms by `State.execAccMem_forms`. -/
theorem andForms : Obligations.AndForms :=
  ⟨fun _ => decodeWord_opcode_or_byte (high := 0x41#8) rfl rfl,
    fun _ => decodeWord_opcode_or_byte (high := 0x51#8) rfl rfl, rfl, rfl, rfl, rfl,
    fun s => ⟨fun _ => rfl, State.execAccMem_forms s.andByte_eq⟩⟩

/-- Settles O40: the words by the decoder's round trip, the memory forms by `State.execAccMem_forms`. -/
theorem xorForms : Obligations.XorForms :=
  ⟨fun _ => decodeWord_opcode_or_byte (high := 0x42#8) rfl rfl,
    fun _ => decodeWord_opcode_or_byte (high := 0x52#8) rfl rfl, rfl, rfl, rfl, rfl,
    fun s => ⟨fun _ => rfl, State.execAccMem_forms s.xorByte_eq⟩⟩

/-! ### The sum of `adc` (R125; D10, log 17) -/

/-- The sum of `adc` as the nine bits that R125 computes. -/
def adcNineBits (a m : Byte) (c : Bool) : BitVec 9 :=
  a.setWidth 9 + m.setWidth 9 + (BitVec.ofBool c).setWidth 9

theorem adcNineBits_toNat (a m : Byte) (c : Bool) : (adcNineBits a m c).toNat = adcSum a m c := by
  have hc := c.toNat_lt
  simp [adcNineBits, adcSum]
  omega

theorem adcByte_eq_setWidth (a m : Byte) (c : Bool) : adcByte a m c = (adcNineBits a m c).setWidth 8 := by
  apply BitVec.eq_of_toNat_eq
  rw [adcByte, BitVec.toNat_setWidth, adcNineBits_toNat, BitVec.toNat_ofNat]

theorem adcCarry_eq_getLsbD (a m : Byte) (c : Bool) : adcCarry a m c = (adcNineBits a m c).getLsbD 8 := by
  rw [adcCarry, ← adcNineBits_toNat]
  exact (BitVec.msb_eq_decide (adcNineBits a m c)).symm.trans (BitVec.msb_eq_getLsbD_last _)

theorem State.adcWith_eq (s : State) (m : Byte) :
    s.adcWith m = { s with
      a := (adcNineBits s.a m s.c).setWidth 8, c := (adcNineBits s.a m s.c).getLsbD 8 } := by
  rw [← adcByte_eq_setWidth, ← adcCarry_eq_getLsbD]
  rfl

/-- The byte and the carry that `adc` leaves are together the whole sum. -/
theorem adcByte_add_adcCarry (a m : Byte) (c : Bool) :
    (adcByte a m c).toNat + 256 * (adcCarry a m c).toNat = a.toNat + m.toNat + c.toNat := by
  have hsum : adcSum a m c < 512 := adcNineBits_toNat a m c ▸ (adcNineBits a m c).isLt
  change _ = adcSum a m c
  by_cases h : 256 ≤ adcSum a m c <;> simp [adcByte, adcCarry, h] <;> omega

/-! ### `adc` -/

theorem exec_adcImm (imm8 : Byte) (s : State) : exec (.adcImm imm8) s = .next { s with
    a := adcByte s.a imm8 s.c, c := adcCarry s.a imm8 s.c, pc := s.pc + 2#12 } := rfl

/-- Settles O41: the sum is `adcNineBits`, the memory forms are those of `State.execAccMem_forms`. -/
theorem adcForms : Obligations.AdcForms :=
  ⟨fun _ => decodeWord_opcode_or_byte (high := 0x43#8) rfl rfl,
    fun _ => decodeWord_opcode_or_byte (high := 0x53#8) rfl rfl, rfl, rfl, rfl, rfl,
    fun s => ⟨fun m => adcNineBits s.a m s.c, fun _ => rfl,
      fun imm8 => by rw [exec_adcImm, adcByte_eq_setWidth, adcCarry_eq_getLsbD],
      State.execAccMem_forms s.adcWith_eq⟩⟩

/-- The complement of a byte falls short of 255 by the byte (R131). -/
theorem adcSum_complement (p q : Byte) : adcSum (q ^^^ 0xFF#8) p true = 256 + p.toNat - q.toNat := by
  have hq := q.isLt
  have hnot : (q ^^^ 0xFF#8).toNat = 255 - q.toNat := by
    rw [show q ^^^ 0xFF#8 = ~~~q from BitVec.xor_allOnes, BitVec.toNat_not]
  rw [adcSum, hnot, Bool.toNat_true]
  omega

theorem adcByte_complement (p q : Byte) : adcByte (q ^^^ 0xFF#8) p true = p - q := by
  apply BitVec.eq_of_toNat_eq
  rw [adcByte, adcSum_complement, BitVec.toNat_ofNat, BitVec.toNat_sub]
  omega

theorem adcCarry_complement (p q : Byte) : adcCarry (q ^^^ 0xFF#8) p true = decide (q.toNat ≤ p.toNat) := by
  rw [adcCarry, adcSum_complement, decide_eq_decide]
  omega

/-- Settles O42: the sum with the complement of `q` is 256 more than `p - q` (`adcSum_complement`). -/
theorem adcOfTheComplementSubtracts : Obligations.AdcOfTheComplementSubtracts := by
  intro s p q
  simp only [exec_adcImm, adcByte_complement, adcCarry_complement]

/-- After `adc` the accumulator and the carry are together the sum of what stood there and the operand. -/
theorem exec_adcImm_sum {m : Byte} {s t : State} (h : exec (.adcImm m) s = .next t) :
    t.a.toNat + 256 * t.c.toNat = s.a.toNat + m.toNat + s.c.toNat := by
  cases h
  exact adcByte_add_adcCarry s.a m s.c

/-- Settles O43: each `adc` leaves its whole sum in byte and carry, and the second takes the first one's carry. -/
theorem adcChainsAcrossBytes : Obligations.AdcChainsAcrossBytes := by
  intro s t u lo hi mlo mhi hlo hhi
  have hlow : t.a.toNat + 256 * t.c.toNat = lo.toNat + mlo.toNat + s.c.toNat := exec_adcImm_sum hlo
  have hhigh : u.a.toNat + 256 * u.c.toNat = hi.toNat + mhi.toNat + t.c.toNat := exec_adcImm_sum hhi
  omega

end Sys2Proof.Machine
end

section
/-! PROOFS. `jump` and `call` (spec R140 to R143): their words by the decoder's round trip, their meaning with the
addresses as numbers; and the end of a run, the `jump` to its own address (R207). -/

namespace Sys2Proof

/-- A target field or-ed into the opcode of its instruction is the encoding of that instruction, which decodes back
to it. -/
theorem decodeWord_opcode_or_target {i : Instr} {opcode : BitVec 5} {addr11 : BitVec 11} (hcanonical : canonical i = i)
    (hencode : encode i = opcode ++ addr11) :
    decodeWord ((opcode ++ 0#11 : Word) ||| addr11.setWidth 16) = .ok i := by
  rw [opcode_or_target, ← hencode]
  exact (decodeWordWith_encode _ i).trans (congrArg _ hcanonical)

end Sys2Proof

namespace Sys2Proof.Machine

theorem exec_jump (addr11 : BitVec 11) (s : State) :
    exec (.jump addr11) s = .next { s with pc := branchTarget addr11 } := rfl

theorem exec_call (addr11 : BitVec 11) (s : State) :
    exec (.call addr11) s = .next { s with ra := s.nextPc, pc := branchTarget addr11 } := rfl

/-- Settles O12: the word at `pc` decodes to a `jump`, whose target is the `pc` already there. -/
theorem selfJumpChangesNothing : Obligations.SelfJumpChangesNothing := by
  rintro s ⟨hfetch, hop, htarget⟩
  have hdecoded : s.decoded = .ok (.jump (s.fetch.extractLsb' 0 11)) :=
    decodeWordWith_of_decodeRow (decodeRow_jump hop _)
  rw [step_eq_exec hfetch hdecoded, exec_jump, htarget]

/-- Settles O45: `call` writes both `pc` and `ra` from the old `pc` and the target, so the old `ra` is lost. -/
theorem jumpAndCallGoToTheTarget : Obligations.JumpAndCallGoToTheTarget := by
  refine ⟨fun t => decodeWord_opcode_or_target (opcode := jumpOpcode) rfl rfl,
    fun t => decodeWord_opcode_or_target (opcode := callOpcode) rfl rfl, fun t s => ⟨?jump, ?call, fun old => rfl⟩⟩
  case jump => rw [exec_jump, branchTarget_eq_ofNat]
  case call => rw [exec_call, branchTarget_eq_ofNat, State.nextPc_eq_ofNat, ofNat_mod_4096]

end Sys2Proof.Machine
end

section
/-! PROOFS. The forms of `skb` (spec R150 to R154): their words by the decoder's round trip, their meaning from one
equation over the operand, `State.execSkb_eq`. -/

namespace Sys2Proof

/-- The fields of `skb` or-ed into the opcode and the low byte of a form, as in
`w = 0xA001 | (i << 11) | (bit << 8)`. -/
theorem opcode_or_skbFields (opcode : BitVec 4) (i : Bool) (bit : BitVec 3) (low : Byte) :
    ((opcode ++ 0#4 ++ low : Word) ||| ((BitVec.ofBool i).setWidth 16 <<< 11 ||| bit.setWidth 16 <<< 8)) =
      (opcode ++ BitVec.ofBool i ++ bit ++ low : Word) := by
  have hfields : (BitVec.ofBool i).setWidth 16 <<< 11 ||| bit.setWidth 16 <<< 8 =
      (0#4 ++ BitVec.ofBool i ++ bit ++ 0#8 : Word) := by
    revert i bit
    decide
  have hhigh : ∀ (opcode : BitVec 4) (i : Bool) (bit : BitVec 3),
      (opcode ++ 0#4 : Byte) ||| 0#4 ++ BitVec.ofBool i ++ bit = opcode ++ BitVec.ofBool i ++ bit := by
    decide
  rw [hfields, BitVec.or_append, hhigh, BitVec.or_zero]

/-- The encoding of a form of `skb`, built from its opcode, its fields and its low byte, decodes back to the form. -/
theorem decodeWord_opcode_or_skbFields {form : Instr} {opcode : BitVec 4} {i : Bool} {bit : BitVec 3} {low : Byte}
    (hcanonical : canonical form = form) (hencode : encode form = opcode ++ BitVec.ofBool i ++ bit ++ low) :
    decodeWord ((opcode ++ 0#4 ++ low : Word) |||
      ((BitVec.ofBool i).setWidth 16 <<< 11 ||| bit.setWidth 16 <<< 8)) = .ok form := by
  rw [opcode_or_skbFields, ← hencode]
  exact (decodeWordWith_encode _ form).trans (congrArg _ hcanonical)

end Sys2Proof

namespace Sys2Proof.Machine

/-- The address after `skb` of the byte `m` (R151): past the next instruction if the bit tested equals `i`
(D20, log 19). -/
def State.skbPc (s : State) (i : Bool) (bit : BitVec 3) (m : Byte) : CodeAddr :=
  if m.getLsbD bit.toNat = i then s.pc + 4#12 else s.pc + 2#12

/-- Everything `skb` does at an address `n` that may be read (R151): the postincrement and the pc. -/
theorem State.execSkb_eq {s : State} {i : Bool} {bit : BitVec 3} {o : MemOperand} {n : Nat}
    (haddr : (s.ea o).toNat = n) (hreadable : s.readable (s.ea o) = true) :
    s.execSkb i bit o = .next ((s.afterAccess o).setPc (s.skbPc i bit (s.mem.read n))) := by
  subst haddr
  exact State.ifReadable_next.mpr ⟨hreadable, rfl⟩

/-- Settles O46: the words by the decoder's round trip, each form by `State.execSkb_eq` at its operand. -/
theorem skbForms : Obligations.SkbForms := by
  refine ⟨fun i bit addr8 => ?wordAbs, fun i bit => ⟨_, rfl, ?wordIdxX, ?wordIdxY, ?wordIdxPostX, ?wordIdxPostY⟩,
    fun s i bit => ⟨s.skbPc i bit, fun _ => rfl, fun addr8 => ?abs, ?idxX, ?idxY, ?idxPostX, ?idxPostY⟩⟩
  case wordAbs =>
    have hopcode : 0x9000#16 ||| (BitVec.ofBool i).setWidth 16 <<< 11 ||| bit.setWidth 16 <<< 8 =
        (0x9#4 ++ BitVec.ofBool i ++ bit ++ 0#8 : Word) :=
      (BitVec.or_assoc _ _ _).trans (opcode_or_skbFields 0x9#4 i bit 0#8)
    rw [hopcode]
    exact decodeWord_opcode_or_byte rfl rfl
  case wordIdxX => exact decodeWord_opcode_or_skbFields (opcode := 0xA#4) (low := idxByte .x) rfl rfl
  case wordIdxY => exact decodeWord_opcode_or_skbFields (opcode := 0xA#4) (low := idxByte .y) rfl rfl
  case wordIdxPostX => exact decodeWord_opcode_or_skbFields (opcode := 0xB#4) (low := idxByte .x) rfl rfl
  case wordIdxPostY => exact decodeWord_opcode_or_skbFields (opcode := 0xB#4) (low := idxByte .y) rfl rfl
  case abs => exact State.execSkb_eq (o := .abs addr8) (eaAbs_toNat addr8)
  case idxX => exact State.execSkb_eq (o := .idx .x) s.eaIdx_x_toNat
  case idxY => exact State.execSkb_eq (o := .idx .y) rfl
  case idxPostX => exact State.execSkb_eq (o := .idxPost .x) s.eaIdx_x_toNat
  case idxPostY => exact State.execSkb_eq (o := .idxPost .y) rfl

end Sys2Proof.Machine
end

section
/-! PROOFS. `br` (spec R160 to R170): the eight words by the decoder's round trip; the meaning said once, by
`exec_br`, and of each named row by `exec_nameBr` once its condition is read as a statement about the state. -/

namespace Sys2Proof

/-- A condition and a target or-ed into the opcode of `br` are its encoding, which decodes to the row of the
condition (R160). -/
theorem decodeWord_br (cond : Cond) (t : BitVec 11) :
    decodeWord (0xC000#16 ||| (condBits cond).setWidth 16 <<< 11 ||| t.setWidth 16) = .ok (nameBr cond t) := by
  have hopcode : 0xC000#16 ||| (condBits cond).setWidth 16 <<< 11 = (0b11#2 ++ condBits cond ++ 0#11 : Word) := by
    cases cond <;> rfl
  rw [hopcode, opcode_or_target]
  exact decodeWordWith_encodeBr _ cond t

end Sys2Proof

namespace Sys2Proof.Machine

/-! ### The two outcomes (R161) -/

/-- `br` writes `pc`, and beyond it only what testing the condition records. -/
theorem exec_br (cond : Cond) (t : BitVec 11) (s : State) :
    exec (.br cond t) s = .next { s.condTested cond with
      pc := if s.condHolds cond = true then BitVec.ofNat 12 (2 * t.toNat) else s.pc + 2#12 } := by
  rw [← branchTarget_eq_ofNat, ← s.condTested_pc cond]
  rfl

/-- The row of a condition that holds just when `holds` does. -/
theorem exec_nameBr {cond : Cond} {s : State} {holds : Prop} [Decidable holds]
    (hcond : s.condHolds cond = true ↔ holds) (t : BitVec 11) :
    exec (nameBr cond t) s = .next { s.condTested cond with
      pc := if holds then BitVec.ofNat 12 (2 * t.toNat) else s.pc + 2#12 } := by
  rw [← if_congr hcond rfl rfl, ← exec_br]
  exact canonicalNameKeepsTheMeaning (.br cond t) s

/-- Conditions 0 to 3 take no sample. -/
theorem State.condTested_of_unsampled {cond : Cond} (h : cond ∈ [Cond.nz, Cond.z, Cond.nc, Cond.c]) (s : State) :
    s.condTested cond = s := by
  cases cond with
  | nz | z | nc | c => rfl
  | nint | int | ntick | tick => simp at h

/-- Settles O51: the word by the decoder's round trip, the meaning by `exec_br`. -/
theorem brGoesToTheTargetIfTheConditionHolds : Obligations.BrGoesToTheTargetIfTheConditionHolds :=
  fun cond t s => ⟨decodeWord_br cond t, exec_br cond t s, fun h => s.condTested_of_unsampled h⟩

/-! ### The conditions on the accumulator and the carry (R162 to R165) -/

/-- Settles O47: conditions 0 and 1 compare the accumulator with zero. -/
theorem brTestsTheAccumulator : Obligations.BrTestsTheAccumulator :=
  ⟨decodeWord_br .nz, decodeWord_br .z, fun t _ =>
    ⟨exec_nameBr (cond := .nz) bne_iff_ne t, exec_nameBr (cond := .z) beq_iff_eq t⟩⟩

/-- Settles O48: conditions 2 and 3 are the carry, negated and as it stands. -/
theorem brTestsTheCarry : Obligations.BrTestsTheCarry :=
  ⟨decodeWord_br .nc, decodeWord_br .c, fun t s =>
    ⟨exec_nameBr (cond := .nc) (Bool.not_eq_true' s.c).to_iff t, exec_nameBr (cond := .c) Iff.rfl t⟩⟩

/-! ### The conditions on a sample of an input (R166 to R170, D15; log 10) -/

theorem sampleOf_eq_headD (queue : List Bool) (free : Nat → Bool) (taken : Nat) :
    sampleOf queue free taken = queue.headD (free taken) := by
  cases queue <;> rfl

/-- Settles O49: conditions 4 and 5 are the sample of the external interrupt, negated and as it stands. -/
theorem brTestsTheExternalInterrupt : Obligations.BrTestsTheExternalInterrupt := by
  refine ⟨decodeWord_br .nint, decodeWord_br .int, fun t s => ⟨s.extInt, sampleOf_eq_headD _ _ _, ?_⟩⟩
  rw [List.drop_one]
  exact ⟨exec_nameBr (cond := .nint) (Bool.not_eq_true' s.extInt).to_iff t, exec_nameBr (cond := .int) Iff.rfl t⟩

/-- Settles O50: conditions 6 and 7 are the sample of the clock tick, negated and as it stands. -/
theorem brTestsTheClockTick : Obligations.BrTestsTheClockTick := by
  refine ⟨decodeWord_br .ntick, decodeWord_br .tick, fun t s => ⟨s.clockTick, sampleOf_eq_headD _ _ _, ?_⟩⟩
  rw [List.drop_one]
  exact ⟨exec_nameBr (cond := .ntick) (Bool.not_eq_true' s.clockTick).to_iff t, exec_nameBr (cond := .tick) Iff.rfl t⟩

/-- One settled sample makes a sampled condition hold or fail, as the environment chooses (R170). -/
theorem State.exists_samples_condHolds {cond : Cond} (h : cond ∈ [Cond.nint, Cond.int, Cond.ntick, Cond.tick])
    (s : State) (holds : Bool) :
    ∃ q, { s with extIntQueue := q, tickQueue := q : State }.condHolds cond = holds := by
  cases cond with
  | nz | z | nc | c => simp at h
  | nint | ntick => exact ⟨[!holds], Bool.not_not holds⟩
  | int | tick => exact ⟨[holds], rfl⟩

/-- Settles O52: the samples that make the condition hold, and those that make it fail. -/
theorem eitherOutcomeOfASampledBrIsPossible : Obligations.EitherOutcomeOfASampledBrIsPossible := by
  intro cond t s hcond
  obtain ⟨qTaken, htaken⟩ := s.exists_samples_condHolds hcond true
  obtain ⟨qNext, hnext⟩ := s.exists_samples_condHolds hcond false
  refine ⟨⟨qTaken, _, exec_br cond t _, ?_⟩, ⟨qNext, _, exec_br cond t _, ?_⟩⟩
  · simp [htaken, branchTarget_eq_ofNat]
  · simp [hnext]

end Sys2Proof.Machine
end

section
/-! PROOFS. What stops the machine (spec R180, R181): nothing faults, and a step goes on exactly where it fetches,
decodes and accesses what the memory map admits, which under the default map is everything (R41). -/

namespace Sys2Proof.Machine

/-- A step goes on exactly when an instruction is fetched and decoded whose access the map admits. -/
theorem step_next_iff (s : State) :
    (∃ t, step s = .next t) ↔ s.fetchable = true ∧ ∃ i, s.decoded = .ok i ∧ s.admits i = true := by
  constructor
  · rintro ⟨t, h⟩
    obtain ⟨hfetch, i, hdec, hexec⟩ := step_next_cases h
    exact ⟨hfetch, i, hdec, (exec_next_iff_admits i s).mp ⟨t, hexec⟩⟩
  · rintro ⟨hfetch, i, hdec, hadmits⟩
    rw [step_eq_exec hfetch hdec]
    exact (exec_next_iff_admits i s).mpr hadmits

/-- Under the default map a word can be fetched from any `pc` (R33, R41). -/
theorem State.fetchable_of_defaultMap {s : State} (h : s.params.memMap = memMap) : s.fetchable = true := by
  simp [State.fetchable, State.readable_of_defaultMap h]

/-- Under the default map the access of any instruction is admitted (R32, R41). -/
theorem State.admits_of_defaultMap {s : State} (h : s.params.memMap = memMap) (i : Instr) : s.admits i = true := by
  simp [State.admits, Option.all_eq_true, State.readable_of_defaultMap h, State.writable_of_defaultMap h]

/-- Under the default map a step goes on exactly when the word at `pc` is not reserved (R181). -/
theorem step_next_iff_of_defaultMap {s : State} (h : s.params.memMap = memMap) :
    (∃ t, step s = .next t) ↔ ∃ i, s.decoded = .ok i := by
  simp [step_next_iff, State.fetchable_of_defaultMap h, State.admits_of_defaultMap h]

/-- Settles O9: there is no fault to answer (R180; log 20), and what a step needs to go on is `step_next_iff`. -/
theorem onlyReservedWordsStopTheMachine : Obligations.OnlyReservedWordsStopTheMachine :=
  fun s => ⟨(nomatch ·), step_next_iff s, step_next_iff_of_defaultMap⟩

end Sys2Proof.Machine
end
